-- ==== Sys2Proof/Word.lean ====
section
/-! DEFINITION. The words of the OMR-FXC: bytes of the two byte streams and of the register windows,
32-bit host-bus words, and binary32 bit patterns (00_scope.md R14, R17). -/

namespace Sys2Proof

/-- One byte of a stream or of a register window (R14). -/
abbrev Byte := BitVec 8

/-- One word of the host bus (R200). -/
abbrev Word := BitVec 32

/-- A binary32 value, held as its 32-bit pattern (R17): every register stores any pattern (R120). -/
abbrev F32 := BitVec 32

end Sys2Proof
end

