-- ==== Sys2Proof/Machine/Float32.lean ====
section
/-! DEFINITION. The binary32 primitives of 00_scope.md section 6 (R17 to R25). A finite binary32 value is an integer
multiple of 2^-149, so every operation decodes its operands to naturals, computes exactly, and rounds once
(round to nearest, ties to even, subnormals kept). NaN results are the canonical NaN (R19); selections pass a pattern
through as it is (DEDUCED, safe: notes/assumptions/11.md). -/

namespace Sys2Proof.Machine

/-- `+0.0` -/
def fzero : F32 := 0x00000000#32
/-- `1.0` -/
def fone : F32 := 0x3F800000#32
/-- `+inf` -/
def finf : F32 := 0x7F800000#32
/-- `-inf` -/
def fninf : F32 := 0xFF800000#32
/-- The canonical NaN (R19). -/
def fnan : F32 := 0x7FC00000#32

/-- Sign bit (R17). -/
def fsign (x : F32) : Bool := decide (2 ^ 31 ≤ x.toNat)

/-- The 31 bits below the sign: exponent and fraction, which order the magnitudes. -/
def fmagBits (x : F32) : Nat := x.toNat % 2 ^ 31

/-- NaN: exponent all ones and a non-zero fraction (R17). -/
def fIsNaN (x : F32) : Bool := decide (0x7F800000 < fmagBits x)

/-- An infinity of either sign (R17). -/
def fIsInf (x : F32) : Bool := fmagBits x == 0x7F800000

/-- Neither NaN nor infinite. -/
def fIsFinite (x : F32) : Bool := decide (fmagBits x < 0x7F800000)

/-- The magnitude of a finite value in units of 2^-149 (R17: bias 127, 23 fraction bits). -/
def fmant (x : F32) : Nat :=
  let e := fmagBits x / 2 ^ 23
  let f := fmagBits x % 2 ^ 23
  if e = 0 then f else (2 ^ 23 + f) <<< (e - 1)

/-- A signed pattern from its 31 magnitude bits. -/
def fpack (neg : Bool) (mag : Nat) : F32 := BitVec.ofNat 32 (if neg then 2 ^ 31 + mag else mag)

/-- Round the magnitude `m * 2^-(149+k)` to binary32, to nearest, ties to even (R18). `sticky` says that the exact
value lies strictly between `m` and `m + 1` units. The result is the 31 magnitude bits; a carry out of the
significand moves into the exponent, and a value past the range becomes an infinity. -/
def froundMag (m k : Nat) (sticky : Bool) : Nat :=
  let n := if m = 0 then 0 else m.log2 + 1
  let shift := max k (n - 24)
  let sig := m >>> shift
  let rem2 := 2 * (m % (1 <<< shift))
  let up := decide (1 <<< shift < rem2) || (rem2 == 1 <<< shift && (sticky || sig % 2 == 1))
  min ((shift - k) * 2 ^ 23 + (if up then sig + 1 else sig)) 0x7F800000

/-- Sum of two finite values, exact and then rounded; an exact zero is `-0.0` only for two negative operands (R18). -/
def faddFinite (a b : F32) : F32 :=
  match fsign a, fsign b with
  | false, false => fpack false (froundMag (fmant a + fmant b) 0 false)
  | true, true => fpack true (froundMag (fmant a + fmant b) 0 false)
  | false, true =>
    if fmant a < fmant b then fpack true (froundMag (fmant b - fmant a) 0 false)
    else fpack false (froundMag (fmant a - fmant b) 0 false)
  | true, false =>
    if fmant b < fmant a then fpack true (froundMag (fmant a - fmant b) 0 false)
    else fpack false (froundMag (fmant b - fmant a) 0 false)

/-- `⊕` (R18). -/
def fadd (a b : F32) : F32 :=
  if fIsNaN a || fIsNaN b then fnan
  else if fIsInf a then (if fIsInf b && fsign a != fsign b then fnan else a)
  else if fIsInf b then b
  else faddFinite a b

/-- Sign flip. -/
def fneg (x : F32) : F32 := x ^^^ 0x80000000#32

/-- `⊖` (R18). -/
def fsub (a b : F32) : F32 := fadd a (fneg b)

/-- `⊗` (R18). -/
def fmul (a b : F32) : F32 :=
  if fIsNaN a || fIsNaN b then fnan
  else if fIsInf a || fIsInf b then
    (if fmagBits a == 0 || fmagBits b == 0 then fnan else fpack (fsign a != fsign b) 0x7F800000)
  else fpack (fsign a != fsign b) (froundMag (fmant a * fmant b) 149 false)

/-- `⊘` (R18). -/
def fdiv (a b : F32) : F32 :=
  if fIsNaN a || fIsNaN b then fnan
  else if fIsInf a then (if fIsInf b then fnan else fpack (fsign a != fsign b) 0x7F800000)
  else if fIsInf b then fpack (fsign a != fsign b) 0
  else if fmagBits b == 0 then
    (if fmagBits a == 0 then fnan else fpack (fsign a != fsign b) 0x7F800000)
  else
    fpack (fsign a != fsign b)
      (froundMag ((fmant a <<< 151) / fmant b) 2 ((fmant a <<< 151) % fmant b != 0))

/-- Integer square root from the top bit down: bits `b-1 … 0` are still to be tried on top of `r`. -/
def isqrtFrom (n : Nat) : Nat → Nat → Nat
  | 0, r => r
  | b + 1, r =>
    if (r + (1 <<< b)) * (r + (1 <<< b)) ≤ n then isqrtFrom n b (r + (1 <<< b)) else isqrtFrom n b r

/-- The largest `r` with `r * r ≤ n`. -/
def isqrt (n : Nat) : Nat := isqrtFrom n (n.log2 / 2 + 1) 0

/-- `fsqrt` (R18): the square root of a negative non-zero number is NaN, of `-0.0` is `-0.0`. -/
def fsqrt (x : F32) : F32 :=
  if fIsNaN x then fnan
  else if fmagBits x == 0 then x
  else if fsign x then fnan
  else if fIsInf x then x
  else
    let r := isqrt (fmant x <<< 151)
    fpack false (froundMag r 1 (r * r != fmant x <<< 151))

/-- `f32(n)` (R20): every integer this spec converts is below 2^24 and so exact. -/
def f32OfNat (n : Nat) : F32 := fpack false (froundMag (n <<< 149) 0 false)

/-- The order of the non-NaN values as integers; both zeros are 0 (R20). -/
def fkey (x : F32) : Int := if fsign x then -(fmagBits x : Int) else (fmagBits x : Int)

/-- `a > b` (R20): false when either operand is NaN. -/
def fgt (a b : F32) : Bool := !fIsNaN a && !fIsNaN b && decide (fkey b < fkey a)

/-- `a < b` (R20). -/
def flt (a b : F32) : Bool := fgt b a

/-- `a ≥ b` (R20). -/
def fge (a b : F32) : Bool := !fIsNaN a && !fIsNaN b && decide (fkey b ≤ fkey a)

/-- `a = b` (R20): IEEE equality, so `-0.0 = 0` and a NaN equals nothing. -/
def feq (a b : F32) : Bool := !fIsNaN a && !fIsNaN b && decide (fkey a = fkey b)

/-- `pos` (R21). -/
def fpos (x : F32) : F32 := if fgt x fzero then x else fzero

/-- `clamp01` (R21). -/
def fclamp01 (x : F32) : F32 :=
  if fgt x fzero then (if fgt x fone then fone else x) else fzero

/-- `fmax` (R21): the floor clamp, `f` when `x` is NaN. -/
def ffloorAt (x f : F32) : F32 := if fgt x f then x else f

/-- `floor(t)` of a finite non-negative value. -/
def ffloorNat (t : F32) : Nat := fmant t >>> 149

/-- `floor(t + 1/2)` of a finite non-negative value, in exact arithmetic (R22, R24). -/
def fhalfUpNat (t : F32) : Nat := (2 * fmant t + (1 <<< 149)) >>> 150

/-- `q8` (R22). -/
def q8 (x : F32) : Byte :=
  if fgt x fzero then
    (if fge (fmul x 0x437F0000#32) 0x437F0000#32 then 255#8
     else BitVec.ofNat 8 (fhalfUpNat (fmul x 0x437F0000#32)))
  else 0#8

/-- `s` of R23: `(pr ⊖ 1.0) ⊗ 100.0`. -/
def str8Scaled (pr : F32) : F32 := fmul (fsub pr fone) 0x42C80000#32

/-- `str8` (R23). -/
def str8 (pr : F32) : Byte :=
  if fgt (str8Scaled pr) fzero then
    (if fge (str8Scaled pr) 0x437F0000#32 then 255#8
     else BitVec.ofNat 8 (ffloorNat (str8Scaled pr)))
  else 0#8

/-- `hz16` (R24). -/
def hz16 (x : F32) : BitVec 16 :=
  if fgt x fzero then
    (if fge x 0x477FFF00#32 then 65535#16 else BitVec.ofNat 16 (fhalfUpNat x))
  else 0#16

/-- `sanitize` (R25): a finite positive value, or `+0.0`. -/
def sanitize (v : F32) : F32 := if fIsFinite v && fgt v fzero then v else fzero

end Sys2Proof.Machine
end

