-- ==== Sys2Proof/Config.lean ====
section
/-! DEFINITION. What the spec leaves open and no state holds: the function `NUM.log1p` (R11, 92_eei_decisions.md D5)
and the length of a command, `T_CMD` (R12, D39). Both are opaque: nothing can be proved of them but what R11 and R401
guarantee. -/

namespace Sys2Proof.Config

open Sys2Proof.Machine

/-- Properties P1 to P5 of R11, the only facts the spec guarantees of `NUM.log1p`. -/
structure Log1pLaws (f : F32 → F32) : Prop where
  /-- P1 -/
  zero : f fzero = fzero
  /-- P2, first half: a finite value not below zero goes to a finite value not below zero. -/
  finite_nonneg : ∀ x, fIsFinite x = true → fge x fzero = true →
    fIsFinite (f x) = true ∧ fge (f x) fzero = true
  /-- P2, second half: monotone non-decreasing on `[0, +inf)`. -/
  mono : ∀ x y, fge x fzero = true → fge y x = true → fge (f y) (f x) = true
  /-- P3 -/
  inf : f finf = finf
  /-- P4 -/
  nan : ∀ x, fIsNaN x = true → fIsNaN (f x) = true
  /-- P5, `-1 < x < 0`: negative. -/
  neg : ∀ x, flt 0xBF800000#32 x = true → flt x fzero = true → flt (f x) fzero = true
  /-- P5, `x = -1`: `-inf`. -/
  minusOne : f 0xBF800000#32 = fninf
  /-- P5, `x < -1`: NaN. -/
  belowMinusOne : ∀ x, flt x 0xBF800000#32 = true → fIsNaN (f x) = true

/-- Some function with P1 to P5, which shows that they can be met. It stands for nothing: the block's `NUM.log1p` is the
opaque `num` below. -/
def log1pExample (x : F32) : F32 :=
  if x = 0xBF800000#32 then fninf else if flt x 0xBF800000#32 then fnan else x

theorem log1pExample_laws : Log1pLaws log1pExample where
  zero := by decide
  finite_nonneg := by
    intro x hf hx
    have h1 : x ≠ 0xBF800000#32 := by rintro rfl; exact absurd hx (by decide)
    have h2 : flt x 0xBF800000#32 = false := by
      simp only [fge, flt, fgt] at hx ⊢
      simp only [Bool.and_eq_true, decide_eq_true_eq] at hx
      have h0 : fkey fzero = 0 := by decide
      have h3 : fkey 0xBF800000#32 = -1065353216 := by decide
      rw [Bool.and_eq_false_iff]; right
      simp only [decide_eq_false_iff_not]; omega
    simp [log1pExample, h1, h2, hf, hx]
  mono := by
    intro x y hx hxy
    have key : ∀ z, fge z fzero = true → log1pExample z = z := by
      intro z hz
      have h1 : z ≠ 0xBF800000#32 := by rintro rfl; exact absurd hz (by decide)
      have h2 : flt z 0xBF800000#32 = false := by
        simp only [fge, flt, fgt] at hz ⊢
        simp only [Bool.and_eq_true, decide_eq_true_eq] at hz
        have h0 : fkey fzero = 0 := by decide
        have h3 : fkey 0xBF800000#32 = -1065353216 := by decide
        rw [Bool.and_eq_false_iff]; right
        simp only [decide_eq_false_iff_not]; omega
      simp [log1pExample, h1, h2]
    have hy : fge y fzero = true := by
      simp only [fge, Bool.and_eq_true, decide_eq_true_eq] at hx hxy ⊢
      exact ⟨⟨hxy.1.1, hx.1.2⟩, le_trans hx.2 hxy.2⟩
    rw [key x hx, key y hy]; exact hxy
  inf := by decide
  nan := by
    intro x hx
    have h1 : x ≠ 0xBF800000#32 := by rintro rfl; exact absurd hx (by decide)
    have h2 : flt x 0xBF800000#32 = false := by simp [flt, fgt, hx]
    simp [log1pExample, h1, h2, hx]
  neg := by
    intro x h1 h2
    have h3 : x ≠ 0xBF800000#32 := by rintro rfl; exact absurd h1 (by decide)
    have h4 : flt x 0xBF800000#32 = false := by
      simp only [flt, fgt, Bool.and_eq_true, decide_eq_true_eq] at h1 ⊢
      rw [Bool.and_eq_false_iff]; right
      simp only [decide_eq_false_iff_not]; omega
    simp [log1pExample, h3, h4, h2]
  minusOne := by decide
  belowMinusOne := by
    intro x h
    have h1 : x ≠ 0xBF800000#32 := by rintro rfl; exact absurd h (by decide)
    simp only [log1pExample, h1, h, if_true, if_false]; decide

/-- A function together with P1 to P5 of R11. The default values of the fields only show the type inhabited. -/
structure Log1p where
  /-- the function -/
  fn : F32 → F32 := log1pExample
  /-- P1 to P5 -/
  laws : Log1pLaws fn := by exact log1pExample_laws
  deriving Inhabited

/-- `NUM.log1p` (R11): an OPEN parameter of the block. It has no body: nothing is known of it but `num.laws`
(DESIGN CHOICE, safe: notes/assumptions/5.md). -/
opaque num : Log1p

/-- In which clock cycles the command engine's completion step falls, for the cycles whose inputs no `Cycle` of the
environment's script spells out. -/
structure Completion where
  /-- the completion step falls in the given cycle, if a command is pending then -/
  inCycle : Nat → Bool := fun _ => true
  /-- weak fairness (R401): the step is never put off for ever -/
  fair : ∀ n, ∃ m, n ≤ m ∧ inCycle m = true := by exact fun n => ⟨n, Nat.le_refl n, rfl⟩
  deriving Inhabited

/-- The completion times of the block's command engine (R12, R401): `T_CMD` has no value and no bound a model may rely on,
but weak fairness eventually takes the step. Nothing is known of it but `completion.fair` (DESIGN CHOICE, safe:
notes/assumptions/3.md). -/
opaque completion : Completion

/-- Whether the completion step falls in the given clock cycle. -/
def completesIn (n : Nat) : Bool := completion.inCycle n

end Sys2Proof.Config
end

