-- ==== Sys2Proof/Syntax.lean ====
section
/-! DEFINITION. The instructions of the OMR-FXC (R3): the command words a host writes to CMD and the three
frame types the decoder recognises. One constructor for each row of spec/opcode_table.json. -/

namespace Sys2Proof

/-- The three frame types (R16, R311). -/
inductive FrameType where
  | feature
  | command
  | aux
  deriving DecidableEq, Repr

/-- `LEN(t)` of R16: 68 payload bytes for FEATURE and COMMAND, 36 for AUX. -/
def FrameType.len : FrameType → Nat
  | .feature => 68
  | .command => 68
  | .aux => 36

/-- The instructions. A command word has no operand left once OP and, for SEND_RAW, TYPE are read (R300): every
other bit of the word is ignored. A frame carries its sequence byte, its payload, the CRC field as one 16-bit
value (low byte first on the wire) and the byte found at the EOF position (R310); whether the CRC and the EOF
byte are right is the frame's meaning (R703), not its syntax. -/
inductive Instr where
  /-- NOP, OP 0x00 (R409) -/
  | nop
  /-- ANALYZE, OP 0x01 (R402) -/
  | analyze
  /-- SEND_FEATURE, OP 0x02 (R404) -/
  | sendFeature
  /-- SEND_AUX, OP 0x03 (R410) -/
  | sendAux
  /-- SEND_COMMAND, OP 0x04 (R405) -/
  | sendCommand
  /-- SEND_RAW with TYPE = 1 (R406) -/
  | sendRawFeature
  /-- SEND_RAW with TYPE = 2 (R406) -/
  | sendRawCommand
  /-- SEND_RAW with TYPE = 3 (R406) -/
  | sendRawAux
  /-- RESET_DSP, OP 0x06 (R407) -/
  | resetDsp
  /-- RESET_DECODER, OP 0x07 (R408) -/
  | resetDecoder
  /-- CLEAR_COUNTERS, OP 0x08 (R411) -/
  | clearCounters
  /-- RESET_SEQ, OP 0x09 (R412) -/
  | resetSeq
  /-- FLUSH_TX, OP 0x0A (R413) -/
  | flushTx
  /-- a candidate FEATURE frame (R310, R320) -/
  | frameFeature (seq : Byte) (payload : List Byte) (crc : BitVec 16) (eof : Byte)
  /-- a candidate COMMAND frame (R310, R323) -/
  | frameCommand (seq : Byte) (payload : List Byte) (crc : BitVec 16) (eof : Byte)
  /-- a candidate AUX frame (R310, R322) -/
  | frameAux (seq : Byte) (payload : List Byte) (crc : BitVec 16) (eof : Byte)
  deriving DecidableEq, Repr

end Sys2Proof
end

