-- ==== Sys2Proof/WellFormed.lean ====
section
/-! DEFINITION. When an instruction is one the encodings of 30_encoding.md can spell: a frame's payload has exactly
the length its type fixes ("payload length is exactly determined by type", R311). A command has no operand to check. -/

namespace Sys2Proof

/-- A payload has the length of its frame type (R311). -/
def payloadFits (t : FrameType) (payload : List Byte) : Bool := payload.length == t.len

/-- Well-formed instructions. -/
def Instr.wf : Instr → Bool
  | .nop => true
  | .analyze => true
  | .sendFeature => true
  | .sendAux => true
  | .sendCommand => true
  | .sendRawFeature => true
  | .sendRawCommand => true
  | .sendRawAux => true
  | .resetDsp => true
  | .resetDecoder => true
  | .clearCounters => true
  | .resetSeq => true
  | .flushTx => true
  | .frameFeature _ payload _ _ => payloadFits .feature payload
  | .frameCommand _ payload _ _ => payloadFits .command payload
  | .frameAux _ payload _ _ => payloadFits .aux payload

end Sys2Proof
end

