-- ==== Sys2Proof/Decode.lean ====
section
/-! DEFINITION. Decoding and encoding (30_encoding.md): command words (R300 to R302) and frames (R310 to R313).
Decoding is total on any bytes and rejects by name. The two spaces are disjoint: no opcode equals the SOF byte. -/

namespace Sys2Proof

/-- Start-of-frame marker (R16). -/
def sofByte : Byte := 0xAA#8

/-- End-of-frame marker (R16). -/
def eofByte : Byte := 0xBB#8

/-- Why bytes spell no instruction. -/
inductive Reject where
  /-- fewer than the four bytes of a command word (R300) -/
  | wordIncomplete
  /-- OP 0x0B to 0xFF (R302) -/
  | reservedOpcode (op : Byte)
  /-- SEND_RAW with TYPE = 0 (R302) -/
  | rawTypeZero
  /-- a frame must begin with SOF (R310) -/
  | notSof
  /-- fewer than four bytes of a frame (R703) -/
  | headerIncomplete
  /-- the (type, len) pair is no known one (R313) -/
  | lengthMismatch (typ len : Byte)
  /-- a known header with fewer than `L + 7` bytes (R703) -/
  | frameIncomplete
  deriving DecidableEq, Repr

/-- The type code of a frame (R16, R311). -/
def frameCode : FrameType → Byte
  | .feature => 0x01#8
  | .command => 0x02#8
  | .aux => 0x03#8

/-- The length byte of a frame (R311). -/
def frameLenByte : FrameType → Byte
  | .feature => 0x44#8
  | .command => 0x44#8
  | .aux => 0x24#8

/-- The frame type a type byte names, if any (R16, R311). -/
def frameTypeOf (t : Byte) : Option FrameType :=
  if t = 0x01#8 then some .feature
  else if t = 0x02#8 then some .command
  else if t = 0x03#8 then some .aux
  else none

/-- `known(t, l)` of 46_frame_decoder.md: the type whose code is `t`, when `l` is its length (R313, R704). -/
def knownHeader (t l : Byte) : Option FrameType :=
  match frameTypeOf t with
  | none => none
  | some ft => if l = frameLenByte ft then some ft else none

/-- The frame instruction of a type. -/
def mkFrame : FrameType → Byte → List Byte → BitVec 16 → Byte → Instr
  | .feature => .frameFeature
  | .command => .frameCommand
  | .aux => .frameAux

/-- The command of an (OP, TYPE) pair (R301, R302): TYPE is read for SEND_RAW alone. -/
def decodeCommand (op : Byte) (typ : BitVec 2) : Except Reject Instr :=
  if op = 0x00#8 then .ok .nop
  else if op = 0x01#8 then .ok .analyze
  else if op = 0x02#8 then .ok .sendFeature
  else if op = 0x03#8 then .ok .sendAux
  else if op = 0x04#8 then .ok .sendCommand
  else if op = 0x05#8 then
    if typ = 1#2 then .ok .sendRawFeature
    else if typ = 2#2 then .ok .sendRawCommand
    else if typ = 3#2 then .ok .sendRawAux
    else .error .rawTypeZero
  else if op = 0x06#8 then .ok .resetDsp
  else if op = 0x07#8 then .ok .resetDecoder
  else if op = 0x08#8 then .ok .clearCounters
  else if op = 0x09#8 then .ok .resetSeq
  else if op = 0x0A#8 then .ok .flushTx
  else .error (.reservedOpcode op)

/-- Field OP of a command word, bits [7:0] (R300). -/
def opField (w : Word) : Byte := w.extractLsb' 0 8

/-- Field TYPE of a command word, bits [9:8] (R300). -/
def typeField (w : Word) : BitVec 2 := w.extractLsb' 8 2

/-- The command of a 32-bit command word; bits [31:10] are ignored (R300). -/
def decodeCommandWord (w : Word) : Except Reject Instr := decodeCommand (opField w) (typeField w)

/-- The candidate frame at the front of a buffer, whose byte 0 the decoder does not look at again (R703): the header
check of R704 on bytes 1 and 3, then the `L + 7` bytes of the frame. The rest of the buffer is handed back (DEDUCED, safe:
notes/assumptions/14.md). -/
def decodeCandidate : List Byte → Except Reject (Instr × List Byte)
  | _ :: t :: seq :: l :: body =>
    match knownHeader t l with
    | none => .error (.lengthMismatch t l)
    | some ft =>
      match body.drop ft.len with
      | lo :: hi :: e :: rest => .ok (mkFrame ft seq (body.take ft.len) (hi ++ lo) e, rest)
      | _ => .error .frameIncomplete
  | _ => .error .headerIncomplete

/-- A frame on a byte stream begins with SOF (R310, R701). -/
def decodeFrame (bs : List Byte) : Except Reject (Instr × List Byte) :=
  match bs with
  | [] => .error .headerIncomplete
  | b :: _ => if b = sofByte then decodeCandidate bs else .error .notSof

/-- A command word's four bytes, little-endian (R203, R300). -/
def decodeCommandBytes : List Byte → Except Reject (Instr × List Byte)
  | b0 :: b1 :: b2 :: b3 :: rest =>
    match decodeCommandWord (b3 ++ b2 ++ b1 ++ b0) with
    | .ok i => .ok (i, rest)
    | .error e => .error e
  | _ => .error .wordIncomplete

/-- The decoder of both opcode spaces: SOF begins a frame, any other first byte is the low byte of a command word
(DEDUCED, safe: notes/assumptions/17.md). -/
def decode (bs : List Byte) : Except Reject (Instr × List Byte) :=
  match bs with
  | [] => .error .wordIncomplete
  | b :: _ => if b = sofByte then decodeFrame bs else decodeCommandBytes bs

/-- The bytes of a command word, little-endian (R203). -/
def commandBytes (op typ : Byte) : List Byte := [op, typ, 0x00#8, 0x00#8]

/-- The bytes of a frame in transmission order (R310): SOF, type, seq, len, payload, CRC low, CRC high, EOF. -/
def frameBytes (t : FrameType) (seq : Byte) (payload : List Byte) (crc : BitVec 16) (eof : Byte) : List Byte :=
  sofByte :: frameCode t :: seq :: frameLenByte t
    :: (payload ++ [crc.extractLsb' 0 8, crc.extractLsb' 8 8, eof])

/-- The bytes of an instruction, ignored bits of a command word 0. -/
def encode : Instr → List Byte
  | .nop => commandBytes 0x00#8 0x00#8
  | .analyze => commandBytes 0x01#8 0x00#8
  | .sendFeature => commandBytes 0x02#8 0x00#8
  | .sendAux => commandBytes 0x03#8 0x00#8
  | .sendCommand => commandBytes 0x04#8 0x00#8
  | .sendRawFeature => commandBytes 0x05#8 0x01#8
  | .sendRawCommand => commandBytes 0x05#8 0x02#8
  | .sendRawAux => commandBytes 0x05#8 0x03#8
  | .resetDsp => commandBytes 0x06#8 0x00#8
  | .resetDecoder => commandBytes 0x07#8 0x00#8
  | .clearCounters => commandBytes 0x08#8 0x00#8
  | .resetSeq => commandBytes 0x09#8 0x00#8
  | .flushTx => commandBytes 0x0A#8 0x00#8
  | .frameFeature seq payload crc eof => frameBytes .feature seq payload crc eof
  | .frameCommand seq payload crc eof => frameBytes .command seq payload crc eof
  | .frameAux seq payload crc eof => frameBytes .aux seq payload crc eof

/-- The first `n` bytes of a number, least significant first. -/
def bytesOfNat : Nat → Nat → List Byte
  | 0, _ => []
  | n + 1, w => BitVec.ofNat 8 w :: bytesOfNat n (w / 256)

/-- The bytes of an opcode-table word of `nbits` bits, with zeros above it up to the longest instruction (75 bytes). -/
def tableBytes (nbits w : Nat) : List Byte := bytesOfNat 75 (w % 2 ^ nbits)

/-- The instruction the decoder reads from an opcode-table word. -/
def decodeTableWord (nbits w : Nat) : Option Instr :=
  match decode (tableBytes nbits w) with
  | .ok (i, _) => some i
  | .error _ => none

end Sys2Proof
end

