-- ==== Sys2Proof/Machine/Crc.lean ====
section
/-! DEFINITION. CRC16 (45_frame_encoder.md R650): polynomial 0x1021, initial value 0xFFFF, most significant bit first,
no final XOR. -/

namespace Sys2Proof.Machine

/-- One shift of the CRC register (R650). -/
def crcShift (c : BitVec 16) : BitVec 16 :=
  match c.msb with
  | true => (c <<< 1) ^^^ 0x1021#16
  | false => c <<< 1

/-- `n` shifts. -/
def crcShifts : Nat → BitVec 16 → BitVec 16
  | 0, c => c
  | n + 1, c => crcShifts n (crcShift c)

/-- One byte enters the register from its bit 7 to its bit 0 (R650). -/
def crcByte (c : BitVec 16) (d : Byte) : BitVec 16 := crcShifts 8 (c ^^^ (d ++ 0#8))

/-- The register after further bytes. -/
def crcFrom : BitVec 16 → List Byte → BitVec 16
  | c, [] => c
  | c, d :: ds => crcFrom (crcByte c d) ds

/-- `CRC16(D)` (R650). -/
def crc16 (ds : List Byte) : BitVec 16 := crcFrom 0xFFFF#16 ds

end Sys2Proof.Machine
end

