-- ==== Sys2Proof/Machine/State.lean ====
section
/-! DEFINITION. The state of the OMR-FXC (10_state.md), the inputs of a clock cycle (20_memory.md R220, R221) and the
reset state (70_reset_and_hazards.md R901). Plain data. -/

namespace Sys2Proof.Machine

/-- No rule of the spec stops the block. The one fault guards the model's own totality. -/
inductive Fault where
  /-- Raised by the byte step when a byte would be appended past the 75 bytes of the decoder buffer. R709 rules it
  out in every state a run from reset reaches (stated as an obligation), and the spec gives the write no meaning.
  Safe: the model stops where the spec says nothing. -/
  | decoderBufferOverrun
  deriving DecidableEq, Repr

/-- Refusals: no meaning answers with one. -/
inductive Refusal where
  /-- An instruction whose meaning is not written yet, raised in `exec`'s arm alone. Safe. -/
  | notModelled (mnemonic : String)
  deriving DecidableEq, Repr

/-- Memory: the data windows of the register space that hold bytes (PCLASS_LUT, FEAT_IMG, AUX_IMG, RX_FEAT, RX_CMD,
RX_AUX, TX_RAW, BIN RAM), as (register-space byte address, byte) pairs in rising order. A byte not listed reads as its
reset value (`memResetByte`). DESIGN CHOICE, safe: notes/assumptions/8.md. -/
abbrev Memory := List Host.Cell

/-- PARAM (R102): the two parameters of an instance. Constant while the block runs. -/
structure Param where
  /-- `N_BINS`, 1 to 1024 (R9) -/
  nBins : Nat
  /-- `TXQ_DEPTH`, at least 118 (R10) -/
  txqDepth : Nat
  deriving DecidableEq, Repr

/-- CTRL (R103). -/
structure Ctrl where
  rxEn : Bool
  autoFeat : Bool
  autoAux : Bool
  rxSrc : Bool
  txSink : Bool
  /-- NBANDS, legal values 1 to 12 (R104) -/
  nbands : BitVec 4
  deriving DecidableEq, Repr

/-- TX_CMD (R115). -/
structure TxCmd where
  mode : Byte
  pattern : Byte
  brightness : Byte
  deriving DecidableEq, Repr

/-- One byte for each frame type: SEQ_TX (R116) and SEQ_RX (R117). -/
structure PerType where
  feature : Byte
  command : Byte
  aux : Byte
  deriving DecidableEq, Repr

/-- The diagnostic counters (R119). -/
structure Counters where
  rxOk : BitVec 32
  lenErr : BitVec 32
  frameErr : BitVec 32
  crcErr : BitVec 32
  stale : BitVec 32
  txDrop : BitVec 32
  deriving DecidableEq, Repr

/-- A range of bin indices, both inclusive (R122, R124). -/
structure BinRange where
  lo : BitVec 10
  hi : BitVec 10
  deriving DecidableEq, Repr

/-- The real-valued tunables (R120), in the order of its table. -/
structure Tunables where
  calGain : F32
  alphaBand : F32
  alphaChroma : F32
  betaFloor : F32
  minPeak : F32
  confRatio : F32
  vocScale : F32
  vocMargin : F32
  gateScale : F32
  attack : F32
  releaseCoef : F32
  onsetThr : F32
  slopeThr : F32
  susEngage : F32
  susRelease : F32
  binHz : F32
  kPk : F32
  visScale : F32
  kVis : F32
  deltaGain : F32
  fluxScale : F32
  gammaPk : F32
  pkRatio : F32
  pkFloor : F32
  silenceThr : F32
  deriving DecidableEq, Repr

/-- The DSP configuration registers (R120 to R125). -/
structure DspConfig where
  tun : Tunables
  chFloor : Byte
  refract : BitVec 16
  noteMinStr : Byte
  postWin : Byte
  susN : Byte
  chRange : BinRange
  vocRange : BinRange
  pkRange : BinRange
  bassMask : BitVec 12
  midMask : BitVec 12
  trebMask : BitVec 12
  bandRange : Vector BinRange 12
  tilt : Vector F32 12
  deriving DecidableEq, Repr

/-- The DSP history state (R150). -/
structure DspHistory where
  bandSm : Vector F32 12
  chSm : Vector F32 12
  nfloor : F32
  floorSeeded : Bool
  env : F32
  sinceOnset : BitVec 16
  note : Byte
  nstr : Byte
  candPc : Byte
  candCnt : Byte
  susActive : Bool
  susPc : Byte
  vis : Vector F32 12
  gavg : F32
  deriving DecidableEq, Repr

/-- The two states of the decoder (R151). -/
inductive DecState where
  | seekingSof
  | accumulating
  deriving DecidableEq, Repr

/-- The decoder's state (R151). -/
structure Decoder where
  dstate : DecState
  dbuf : Vector Byte 75
  blen : Nat
  staleCnt : BitVec 16
  deriving DecidableEq, Repr

/-- A command word as the engine holds it (R153). -/
structure CmdWord where
  op : Byte
  typ : BitVec 2
  deriving DecidableEq, Repr

/-- Width of a host access (R205). -/
inductive AccessWidth where
  | byte
  | half
  | word
  deriving DecidableEq, Repr

/-- One access of the host bus: a 13-bit byte address, the width, and for a write the data (R200, R221). -/
inductive HostAccess where
  | read (addr : BitVec 13) (width : AccessWidth)
  | write (addr : BitVec 13) (width : AccessWidth) (data : Word)
  deriving DecidableEq, Repr

/-- The inputs of one clock cycle (R220, R221), and whether the pending command completes in it (R12, R401). -/
structure Cycle where
  rst : Bool
  complete : Bool
  host : Option HostAccess
  rx : Option Byte
  txReady : Bool
  tbTick : Bool
  deriving DecidableEq, Repr

/-- A cycle without any input. -/
def Cycle.quiet : Cycle :=
  { rst := false, complete := false, host := none, rx := none, txReady := false, tbTick := false }

/-- The response of the host bus to an access: the data of a read (0 for a write, a DESIGN CHOICE: notes/assumptions/12.md)
and the error response (R205). -/
structure BusResponse where
  data : Word
  err : Bool
  deriving DecidableEq, Repr

/-- What the ports carried in the cycle just taken: the bus response and the byte that left on `tx` (R221). -/
structure PortOut where
  bus : Option BusResponse
  tx : Option Byte
  deriving DecidableEq, Repr

/-- What one cycle must remember between its steps: the event flags hardware has set in it (R107: a set wins over a
clear in the same step) and whether the decoder took a byte step in it (R720). -/
structure CycleNotes where
  irqRaised : BitVec 7
  byteTaken : Bool
  deriving DecidableEq, Repr

/-- The state of the block, and the model's own fields at its end. -/
structure State where
  param : Param
  ctrl : Ctrl
  irqStatus : BitVec 7
  irqEnable : BitVec 7
  cmdErr : BitVec 32
  decErr : BitVec 32
  staleTimeout : BitVec 16
  txCmd : TxCmd
  seqTx : PerType
  seqRx : PerType
  tickCnt : BitVec 32
  cnt : Counters
  cfg : DspConfig
  mem : Memory
  dsp : DspHistory
  dec : Decoder
  txFifo : List Byte
  pending : Option CmdWord
  /-- the model's own: the inputs of the cycles to come, the next one first (DESIGN CHOICE, safe: notes/assumptions/2.md) -/
  script : List Cycle
  /-- the model's own: how many cycles have been taken since `State.reset` -/
  clk : Nat
  /-- the model's own: notes of the cycle just taken -/
  now : CycleNotes
  /-- the model's own: the port outputs of the cycle just taken -/
  port : PortOut
  deriving DecidableEq, Repr

/-- Reset values of the real-valued tunables (R120). -/
def Tunables.reset : Tunables :=
  { calGain := 0x3F800000#32, alphaBand := 0x3E19999A#32, alphaChroma := 0x00000000#32,
    betaFloor := 0x3F7EB852#32, minPeak := 0x3A83126F#32, confRatio := 0x3FC00000#32,
    vocScale := 0x3F800000#32, vocMargin := 0x3F800000#32, gateScale := 0x3F800000#32,
    attack := 0x3F800000#32, releaseCoef := 0x3F800000#32, onsetThr := 0x00000000#32,
    slopeThr := 0x00000000#32, susEngage := 0x00000000#32, susRelease := 0x00000000#32,
    binHz := 0x3F800000#32, kPk := 0x3F800000#32, visScale := 0x3F800000#32, kVis := 0x3F800000#32,
    deltaGain := 0x3F800000#32, fluxScale := 0x3F800000#32, gammaPk := 0x00000000#32,
    pkRatio := 0x3F800000#32, pkFloor := 0x00000000#32, silenceThr := 0x00000000#32 }

/-- The range (0, 0). -/
def BinRange.reset : BinRange := { lo := 0#10, hi := 0#10 }

/-- Reset values of the DSP configuration (R120 to R125). -/
def DspConfig.reset : DspConfig :=
  { tun := Tunables.reset, chFloor := 0#8, refract := 0#16, noteMinStr := 0#8, postWin := 0#8, susN := 1#8,
    chRange := BinRange.reset, vocRange := BinRange.reset, pkRange := BinRange.reset,
    bassMask := 0x00F#12, midMask := 0x0F0#12, trebMask := 0xF00#12,
    bandRange := Vector.replicate 12 BinRange.reset, tilt := Vector.replicate 12 0x3F800000#32 }

/-- Reset values of the DSP history state (R150). -/
def DspHistory.reset : DspHistory :=
  { bandSm := Vector.replicate 12 0#32, chSm := Vector.replicate 12 0#32, nfloor := 0#32, floorSeeded := false,
    env := 0#32, sinceOnset := 65535#16, note := 255#8, nstr := 0#8, candPc := 255#8, candCnt := 0#8,
    susActive := false, susPc := 255#8, vis := Vector.replicate 12 0#32, gavg := 0#32 }

/-- The decoder's initial state (R151, R702). -/
def Decoder.reset : Decoder :=
  { dstate := .seekingSof, dbuf := Vector.replicate 75 0#8, blen := 0, staleCnt := 0#16 }

/-- Reset values of CTRL (R103). -/
def Ctrl.reset : Ctrl :=
  { rxEn := false, autoFeat := false, autoAux := false, rxSrc := false, txSink := false, nbands := 12#4 }

/-- Three zero bytes. -/
def PerType.zero : PerType := { feature := 0#8, command := 0#8, aux := 0#8 }

/-- All six counters at 0 (R119). -/
def Counters.zero : Counters :=
  { rxOk := 0#32, lenErr := 0#32, frameErr := 0#32, crcErr := 0#32, stale := 0#32, txDrop := 0#32 }

/-- No event noted yet. -/
def CycleNotes.none : CycleNotes := { irqRaised := 0#7, byteTaken := false }

/-- Nothing on the ports. -/
def PortOut.none : PortOut := { bus := Option.none, tx := Option.none }

/-- The reset state of an instance with the given parameters (R901). -/
def State.resetWith (p : Param) : State :=
  { param := p, ctrl := Ctrl.reset, irqStatus := 0#7, irqEnable := 0#7, cmdErr := 0#32, decErr := 0#32,
    staleTimeout := 20#16, txCmd := { mode := 0#8, pattern := 0#8, brightness := 0#8 },
    seqTx := PerType.zero, seqRx := PerType.zero, tickCnt := 0#32, cnt := Counters.zero,
    cfg := DspConfig.reset, mem := [], dsp := DspHistory.reset, dec := Decoder.reset, txFifo := [],
    pending := Option.none, script := [], clk := 0, now := CycleNotes.none, port := PortOut.none }

/-- The machine right after reset, with the default parameters of R9 and R10 (DESIGN CHOICE: notes/assumptions/4.md). -/
def State.reset : State := State.resetWith { nBins := 512, txqDepth := 256 }

end Sys2Proof.Machine
end

