-- ==== Sys2Proof/Machine/Flags.lean ====
section
/-! DEFINITION. The flags: the event bits of IRQ_STATUS (10_state.md R107), the status bits (R105), the interrupt output
(60_exceptions.md R810) and the `tx` port's handshake outputs (20_memory.md R221). -/

namespace Sys2Proof.Machine

/-- CMD_DONE, bit 0 (R107). -/
def irqCmdDone : BitVec 7 := 0x01#7
/-- TICK_DONE, bit 1 (R107). -/
def irqTickDone : BitVec 7 := 0x02#7
/-- RX_ERR, bit 5 (R107). -/
def irqRxErr : BitVec 7 := 0x20#7
/-- CMD_ERR, bit 6 (R107). -/
def irqCmdErr : BitVec 7 := 0x40#7

/-- RX_FEATURE, RX_COMMAND or RX_AUX, bits 2, 3 and 4 (R107). -/
def irqRx : FrameType → BitVec 7
  | .feature => 0x04#7
  | .command => 0x08#7
  | .aux => 0x10#7

/-- Hardware sets event bits: they are set in IRQ_STATUS and noted as set in this cycle (R107). -/
def State.raiseIrq (s : State) (bits : BitVec 7) : State :=
  { s with irqStatus := s.irqStatus ||| bits
           now := { s.now with irqRaised := s.now.irqRaised ||| bits } }

/-- The host clears event bits by writing 1 to them; a bit that hardware has set in the same cycle stays set
(R107, R809; that "the same step" is the clock cycle is DEDUCED: notes/assumptions/7.md). This write is a handler's
return (R811). -/
def State.clearIrq (s : State) (bits : BitVec 7) : State :=
  { s with irqStatus := (s.irqStatus &&& ~~~bits) ||| (s.irqStatus &&& s.now.irqRaised) }

/-- The `irq` output (R810). -/
def State.irqOut (s : State) : Bool := (s.irqStatus &&& s.irqEnable) != 0#7

/-- STATUS.BUSY (R105, R153). -/
def State.busy (s : State) : Bool := s.pending.isSome

/-- STATUS.DEC_ACC (R105). -/
def State.decAcc (s : State) : Bool := s.dec.dstate == .accumulating

/-- STATUS.TX_EMPTY (R105, R656). -/
def State.txEmpty (s : State) : Bool := s.txFifo.isEmpty

/-- The `tx_valid` output (R221, R656). -/
def State.txValid (s : State) : Bool := !s.ctrl.txSink && !s.txFifo.isEmpty

/-- The `tx_data` output (R221): the oldest byte while `tx_valid` is 1. -/
def State.txData (s : State) : Option Byte := if s.txValid then s.txFifo.head? else none

end Sys2Proof.Machine
end

