-- ==== Sys2Proof/Machine/Operands.lean ====
section
/-! DEFINITION. Operand forms: byte order (20_memory.md R203), the operands of a payload (30_encoding.md R324), the
fields of register words (10_state.md R115, R122), arrays of twelve. -/

namespace Sys2Proof.Machine

/-- Byte `j` of a word, little-endian: bits `[8j+7 : 8j]` (R203). -/
def wordByte (w : Word) (j : Nat) : Byte := w.extractLsb' (8 * j) 8

/-- The four bytes of a word, least significant first (R203). -/
def bytesOfWord (w : Word) : List Byte := [wordByte w 0, wordByte w 1, wordByte w 2, wordByte w 3]

/-- The word of four bytes, least significant first (R203). -/
def wordOfBytes (b0 b1 b2 b3 : Byte) : Word := b3 ++ b2 ++ b1 ++ b0

/-- The two bytes of a 16-bit value, least significant first (R203). -/
def bytesOfHalf (h : BitVec 16) : List Byte := [h.extractLsb' 0 8, h.extractLsb' 8 8]

/-- The u8 operand at offset `k` of a payload (R324). -/
def payloadU8 (p : List Byte) (k : Nat) : Byte := p.getD k 0#8

/-- The u16 operand at offset `k` of a payload (R324). -/
def payloadU16 (p : List Byte) (k : Nat) : BitVec 16 := payloadU8 p (k + 1) ++ payloadU8 p k

/-- The binary32 operand at offset `k` of a payload (R324). -/
def payloadF32 (p : List Byte) (k : Nat) : F32 :=
  wordOfBytes (payloadU8 p k) (payloadU8 p (k + 1)) (payloadU8 p (k + 2)) (payloadU8 p (k + 3))

/-- A bool field as the block writes it (R321). -/
def boolByte (b : Bool) : Byte := if b then 1#8 else 0#8

/-- One bit of a register word. -/
def boolBit (b : Bool) : BitVec 1 := if b then 1#1 else 0#1

/-- A bin-range register word: LO in bits [9:0], HI in bits [25:16], the rest reserved (R122, R124). -/
def rangeOfWord (w : Word) : BinRange := { lo := w.extractLsb' 0 10, hi := w.extractLsb' 16 10 }

/-- What a bin-range register reads (R122, R124). -/
def wordOfRange (r : BinRange) : Word := 0#6 ++ r.hi ++ 0#6 ++ r.lo

/-- TX_CMD from the written word; bits [31:24] are reserved (R115). -/
def txCmdOfWord (w : Word) : TxCmd :=
  { mode := wordByte w 0, pattern := wordByte w 1, brightness := wordByte w 2 }

/-- What TX_CMD reads (R115). -/
def wordOfTxCmd (c : TxCmd) : Word := wordOfBytes c.mode c.pattern c.brightness 0#8

/-- What SEQ_TX and SEQ_RX read (R116, R117). -/
def wordOfPerType (p : PerType) : Word := wordOfBytes p.feature p.command p.aux 0#8

/-- The byte kept for a frame type. -/
def PerType.get (p : PerType) : FrameType → Byte
  | .feature => p.feature
  | .command => p.command
  | .aux => p.aux

/-- Replace the byte kept for a frame type. -/
def PerType.set (p : PerType) (t : FrameType) (b : Byte) : PerType :=
  match t with
  | .feature => { p with feature := b }
  | .command => { p with command := b }
  | .aux => { p with aux := b }

/-- An array of twelve from its entries. -/
def vec12 {α : Type} (f : Fin 12 → α) : Vector α 12 :=
  #v[f 0, f 1, f 2, f 3, f 4, f 5, f 6, f 7, f 8, f 9, f 10, f 11]

/-- The decoder buffer that holds the given bytes from index 0 and zeros above them (R151, R708). -/
def bufOfBytes (bs : List Byte) : Vector Byte 75 :=
  ⟨⟨(bs ++ List.replicate 75 0#8).take 75⟩, by simp⟩

end Sys2Proof.Machine
end

