-- ==== Sys2Proof/Machine/Ops.lean ====
section
/-! DEFINITION. The shared operations: memory, the error records (what this block has in place of exceptions,
60_exceptions.md R805, R806, R811), the command engine's completion (40_command_engine.md R401), the frame encoder
(45_frame_encoder.md R652 to R656), and the decoder's buffer (46_frame_decoder.md R702, R708, R712). -/

namespace Sys2Proof.Machine

/-! ## Outcomes -/

/-- Go on with the next step of the same cycle (R220), unless the block has stopped. -/
def andThen (o : Host.Outcome State Fault Refusal) (f : State → Host.Outcome State Fault Refusal) :
    Host.Outcome State Fault Refusal :=
  match o with
  | .next s => f s
  | .fault r => .fault r
  | .refused r => .refused r

/-! ## Memory -/

/-- First byte of PCLASS_LUT (R126). -/
def lutBase : Nat := 0x400
/-- First byte of FEAT_IMG (R127). -/
def featImgBase : Nat := 0x600
/-- First byte of AUX_IMG (R128). -/
def auxImgBase : Nat := 0x680
/-- First byte of TX_RAW (R130). -/
def txRawBase : Nat := 0x880
/-- First byte of the BIN RAM (R133). -/
def binBase : Nat := 0x1000

/-- First byte of the RX snapshot of a type: RX_FEAT, RX_CMD, RX_AUX (R129). -/
def rxBase : FrameType → Nat
  | .feature => 0x700
  | .command => 0x780
  | .aux => 0x800

/-- What a byte that is not listed reads as: its reset value. PCLASS_LUT resets to 0xFF (R126), bytes 50 and 65 of
FEAT_IMG to 0xFF (R127), every other window to 0 (R127 to R130, R133). -/
def memResetByte (a : Nat) : Byte :=
  if 0x400 ≤ a ∧ a < 0x600 then 0xFF#8
  else if a = 0x632 ∨ a = 0x641 then 0xFF#8
  else 0#8

/-- Read one byte of memory. -/
def memRead : Memory → Nat → Byte
  | [], a => memResetByte a
  | (k, v) :: rest, a => if k = a then v else memRead rest a

/-- Remove the entry of an address. -/
def memErase (m : Memory) (a : Nat) : Memory := m.filter (fun c => c.1 != a)

/-- Insert an entry before the first one with a larger address. -/
def memInsert : Memory → Nat → Byte → Memory
  | [], a, v => [(a, v)]
  | (k, x) :: rest, a, v => if a < k then (a, v) :: (k, x) :: rest else (k, x) :: memInsert rest a v

/-- Write one byte of memory; writing the reset value removes the entry. -/
def memWrite (m : Memory) (a : Nat) (v : Byte) : Memory :=
  if v = memResetByte a then memErase m a else memInsert (memErase m a) a v

/-- Write bytes at rising addresses. -/
def memWriteBytes : Memory → Nat → List Byte → Memory
  | m, _, [] => m
  | m, a, b :: bs => memWriteBytes (memWrite m a b) (a + 1) bs

/-- Read `n` bytes from rising addresses. -/
def memReadBytes (m : Memory) : Nat → Nat → List Byte
  | _, 0 => []
  | a, n + 1 => memRead m a :: memReadBytes m (a + 1) n

/-- The word at an address, little-endian (R203). -/
def memReadWord (m : Memory) (a : Nat) : Word :=
  wordOfBytes (memRead m a) (memRead m (a + 1)) (memRead m (a + 2)) (memRead m (a + 3))

/-- Write a word, little-endian (R203). -/
def memWriteWord (m : Memory) (a : Nat) (w : Word) : Memory := memWriteBytes m a (bytesOfWord w)

/-- The listed addresses rise strictly. -/
def memSorted : Memory → Bool
  | [] => true
  | [_] => true
  | c :: d :: rest => decide (c.1 < d.1) && memSorted (d :: rest)

/-- The canonical form: addresses strictly rising, and no entry equal to what an unlisted address reads as. -/
def Memory.wf (m : Memory) : Bool := memSorted m && m.all (fun c => c.2 != memResetByte c.1)

/-- Memory after a write of bytes at `a`. -/
def State.writeMem (s : State) (a : Nat) (bs : List Byte) : State := { s with mem := memWriteBytes s.mem a bs }

/-! ## Error records: what raising an error does, in place of taking an exception (R811) -/

/-- The command error codes (R801). -/
inductive CmdErrCode where
  | badOpcode
  | cmdBusy
  | cfgRange
  | cfgMask
  | txOverflow
  | writeBusy
  deriving DecidableEq, Repr

/-- CMD_ERR.CODE (R801). -/
def cmdErrNumber : CmdErrCode → BitVec 4
  | .badOpcode => 1#4
  | .cmdBusy => 2#4
  | .cfgRange => 3#4
  | .cfgMask => 4#4
  | .txOverflow => 5#4
  | .writeBusy => 6#4

/-- The CMD_ERR record (R109, R805). -/
def cmdErrWord (code : CmdErrCode) (opcode detail : Byte) : Word :=
  0#8 ++ detail ++ opcode ++ 0#4 ++ cmdErrNumber code

/-- `raise CmdError(code, opcode, detail)` (R805): the record is overwritten and the event bit set. -/
def State.raiseCmdError (s : State) (code : CmdErrCode) (opcode detail : Byte) : State :=
  ({ s with cmdErr := cmdErrWord code opcode detail }).raiseIrq irqCmdErr

/-- The decoder error codes (R802). -/
inductive DecErrCode where
  | lengthMismatch
  | framingError
  | checksumError
  | staleFrame
  deriving DecidableEq, Repr

/-- DEC_ERR.CODE (R802). -/
def decErrNumber : DecErrCode → BitVec 4
  | .lengthMismatch => 1#4
  | .framingError => 2#4
  | .checksumError => 3#4
  | .staleFrame => 4#4

/-- The counter of a decoder error, plus one modulo 2^32 (R802, R806). -/
def Counters.bumpDec (c : Counters) : DecErrCode → Counters
  | .lengthMismatch => { c with lenErr := c.lenErr + 1#32 }
  | .framingError => { c with frameErr := c.frameErr + 1#32 }
  | .checksumError => { c with crcErr := c.crcErr + 1#32 }
  | .staleFrame => { c with stale := c.stale + 1#32 }

/-- DEC_ERR.TYPE: buffer byte 1 when BLEN ≥ 2, else 0 (R110). -/
def decErrType (d : Decoder) : Byte := if 2 ≤ d.blen then d.dbuf[1] else 0#8

/-- The DEC_ERR record (R110, R806), from the buffer before recovery. -/
def decErrWord (code : DecErrCode) (d : Decoder) : Word :=
  0#8 ++ decErrType d ++ 0#1 ++ BitVec.ofNat 7 d.blen ++ 0#4 ++ decErrNumber code

/-- `raise DecError(code)` (R806): the record, the counter and the event bit. -/
def State.raiseDecError (s : State) (code : DecErrCode) : State :=
  ({ s with decErr := decErrWord code s.dec, cnt := s.cnt.bumpDec code }).raiseIrq irqRxErr

/-! ## The command engine -/

/-- The end of every command (R401): the engine is empty again and CMD_DONE is set. -/
def State.finishCommand (s : State) : State := ({ s with pending := none }).raiseIrq irqCmdDone

/-- The reset image of FEAT_IMG (R127): all bytes 0 except byte 50 and byte 65. -/
def featResetImage : List Byte :=
  List.replicate 50 0#8 ++ [0xFF#8] ++ List.replicate 14 0#8 ++ [0xFF#8, 0#8, 0#8]

/-- Both payload images at their reset images (R127, R128). -/
def resetImages (m : Memory) : Memory :=
  memWriteBytes (memWriteBytes m featImgBase featResetImage) auxImgBase (List.replicate 36 0#8)

/-- `RESET_DSP`'s change, also made by a re-grouping (R407, R104, R124): the DSP history state and both payload images
go to their reset values. -/
def State.clearDsp (s : State) : State := { s with dsp := DspHistory.reset, mem := resetImages s.mem }

/-! ## The frame encoder -/

/-- The bytes the CRC of a frame covers: type, seq, len, payload (R312). -/
def crcCovered (t : FrameType) (seq : Byte) (payload : List Byte) : List Byte :=
  frameCode t :: seq :: frameLenByte t :: payload

/-- The frame the encoder builds (R652). -/
def encodedFrame (t : FrameType) (seq : Byte) (payload : List Byte) : List Byte :=
  frameBytes t seq payload (crc16 (crcCovered t seq payload)) eofByte

/-- A frame of the type fits in the free space of the TX FIFO (R652, R655). An overfull FIFO has no free space
(DESIGN CHOICE, safe: notes/assumptions/19.md). -/
def State.txFits (s : State) (t : FrameType) : Bool :=
  decide (t.len + 7 ≤ s.param.txqDepth - s.txFifo.length)

/-- `Encode(t, P)` for the running command's opcode (R652, R653, R655): the whole frame enters the FIFO and the type's
sequence counter moves on, or the frame is dropped, counted and recorded as TX_OVERFLOW. -/
def State.encodeFrame (s : State) (opcode : Byte) (t : FrameType) (payload : List Byte) : State :=
  if s.txFits t then
    { s with txFifo := s.txFifo ++ encodedFrame t (s.seqTx.get t) payload
             seqTx := s.seqTx.set t (s.seqTx.get t + 1#8) }
  else
    ({ s with cnt := { s.cnt with txDrop := s.cnt.txDrop + 1#32 } }).raiseCmdError .txOverflow opcode (frameCode t)

/-- The payload image of the latest ANALYZE (R127). -/
def State.featImage (s : State) : List Byte := memReadBytes s.mem featImgBase 68

/-- The AUX payload image of the latest ANALYZE (R128). -/
def State.auxImage (s : State) : List Byte := memReadBytes s.mem auxImgBase 36

/-- The first `n` bytes of TX_RAW (R130). -/
def State.txRaw (s : State) (n : Nat) : List Byte := memReadBytes s.mem txRawBase n

/-- The COMMAND payload SEND_COMMAND builds (R323, R405). -/
def commandPayload (c : TxCmd) : List Byte := c.mode :: c.pattern :: c.brightness :: List.replicate 65 0#8

/-- The oldest byte leaves the TX FIFO (R656). -/
def State.popTx (s : State) : State := { s with txFifo := s.txFifo.tail }

/-! ## The decoder's buffer -/

/-- The valid bytes of the decoder buffer (R151). -/
def Decoder.bytes (d : Decoder) : List Byte := d.dbuf.toList.take d.blen

/-- The buffer holds exactly the given bytes; an empty buffer is SEEKING_SOF (R708). -/
def Decoder.withBytes (d : Decoder) (bs : List Byte) : Decoder :=
  match bs with
  | [] => { d with dbuf := bufOfBytes [], blen := 0, dstate := .seekingSof }
  | b :: rest =>
    { d with dbuf := bufOfBytes (b :: rest), blen := rest.length + 1, dstate := .accumulating }

/-- What Resync keeps: the buffer from the lowest index `j ≥ 1` that holds SOF, or nothing (R708). -/
def resyncKeep (bs : List Byte) : List Byte := bs.tail.dropWhile (fun b => b != sofByte)

/-- `Resync()` (R708). -/
def State.resync (s : State) : State := { s with dec := s.dec.withBytes (resyncKeep s.dec.bytes) }

/-- The hard clear after a delivery and at a stale timeout (R703, R720). -/
def State.clearBuffer (s : State) : State := { s with dec := s.dec.withBytes [] }

/-- `RESET_DECODER`'s change, also made when RX_EN goes from 1 to 0 (R408, R702, R721). -/
def State.resetDecoder (s : State) : State := { s with dec := Decoder.reset }

/-- `Dispatch(t, s, P)` (R712): the snapshot of the type, its SEQ_RX byte, its event bit and CNT_RX_OK. -/
def State.dispatchFrame (s : State) (t : FrameType) (seq : Byte) (payload : List Byte) : State :=
  ({ s.writeMem (rxBase t) payload with
      seqRx := s.seqRx.set t seq
      cnt := { s.cnt with rxOk := s.cnt.rxOk + 1#32 } }).raiseIrq (irqRx t)

end Sys2Proof.Machine
end

