-- ==== Sys2Proof/Machine/Bands.lean ====
section
/-! DEFINITION. The Band Analyzer, first stage of ANALYZE (41_band_analyzer.md). -/

namespace Sys2Proof.Machine

/-- `BIN[b]` (R133): entries at `N_BINS` or above read 0. -/
def State.bin (s : State) (b : Nat) : F32 :=
  if b < s.param.nBins then memReadWord s.mem (binBase + 4 * b) else 0#32

/-- `m(b) = sanitize(BIN[b])` (R25). -/
def State.mag (s : State) (b : Nat) : F32 := sanitize (s.bin b)

/-- The bins `lo`, `lo + 1`, … of a range, `n` of them: sum of squared magnitudes on top of `acc`, ascending (R451). -/
def sumSquares (m : Nat → F32) : F32 → Nat → Nat → F32
  | acc, _, 0 => acc
  | acc, b, n + 1 => sumSquares m (fadd acc (fmul (m b) (m b))) (b + 1) n

/-- How many bins a range holds (R451). -/
def BinRange.count (r : BinRange) : Nat := r.hi.toNat + 1 - r.lo.toNat

/-- RMS over a range: the root of the mean of the squared magnitudes (R451, R551). -/
def rangeRms (m : Nat → F32) (r : BinRange) : F32 :=
  fsqrt (fdiv (sumSquares m fzero r.lo.toNat r.count) (f32OfNat r.count))

/-- Single-pole smoothing `α·prev + (1-α)·raw`, each operation rounded (R453, R502, R552, R608). -/
def smooth (alpha prev raw : F32) : F32 :=
  fadd (fmul alpha prev) (fmul (fsub fone alpha) raw)

/-- `raw[i]` of an active band: RMS times calibration gain times tilt (R452). -/
def bandRaw (cfg : DspConfig) (m : Nat → F32) (i : Fin 12) : F32 :=
  fmul (fmul (rangeRms m cfg.bandRange[i]) cfg.tun.calGain) cfg.tilt[i]

/-- `raw[0..11]`: inactive bands are `+0.0` (R452, R454). -/
def rawBands (cfg : DspConfig) (n : Nat) (m : Nat → F32) : Vector F32 12 :=
  vec12 (fun i => if i.val < n then bandRaw cfg m i else fzero)

/-- The new `band_sm[0..11]` (R453, R454). -/
def smoothBands (cfg : DspConfig) (n : Nat) (raw prev : Vector F32 12) : Vector F32 12 :=
  vec12 (fun i => if i.val < n then smooth cfg.tun.alphaBand prev[i] raw[i] else fzero)

end Sys2Proof.Machine
end

