-- ==== Sys2Proof/Machine/Chroma.lean ====
section
/-! DEFINITION. The chroma and dominant-pitch extractor, second stage of ANALYZE (42_chroma_pitch.md). -/

namespace Sys2Proof.Machine

/-- `LUT[b]` (R126): bits `[4(b mod 8)+3 : 4(b mod 8)]` of word `b div 8` of PCLASS_LUT. -/
def State.lut (s : State) (b : Nat) : Nat :=
  ((memReadWord s.mem (lutBase + 4 * (b / 8))).extractLsb' (4 * (b % 8)) 4).toNat

/-- `acc[p]` of one pitch class: squared magnitudes of the bins whose entry is `p`, ascending (R501). -/
def classPower (m : Nat → F32) (lut : Nat → Nat) (p : Nat) : F32 → Nat → Nat → F32
  | acc, _, 0 => acc
  | acc, b, n + 1 =>
    classPower m lut p (if lut b = p then fadd acc (fmul (m b) (m b)) else acc) (b + 1) n

/-- `amp[p]` (R501). -/
def classAmp (cfg : DspConfig) (m : Nat → F32) (lut : Nat → Nat) (p : Fin 12) : F32 :=
  fsqrt (classPower m lut p.val fzero cfg.chRange.lo.toNat cfg.chRange.count)

/-- The new `ch_sm[0..11]` (R502). -/
def smoothChroma (cfg : DspConfig) (m : Nat → F32) (lut : Nat → Nat) (prev : Vector F32 12) : Vector F32 12 :=
  vec12 (fun p => smooth cfg.tun.alphaChroma prev[p] (classAmp cfg m lut p))

/-- First maximum of a list that goes on at index `p`, with the best value and index so far (R503). -/
def firstMax : F32 → Nat → Nat → List F32 → F32 × Nat
  | mx, am, _, [] => (mx, am)
  | mx, am, p, x :: xs => if fgt x mx then firstMax x p (p + 1) xs else firstMax mx am (p + 1) xs

/-- `mx` and `am` of R503: the search starts at class 0, and a later class wins only by a strictly larger value. -/
def chromaMax (ch : Vector F32 12) : F32 × Nat := firstMax ch[0] 0 1 ch.toList.tail

/-- Sum from `+0.0`, ascending (R18). -/
def fsum : F32 → List F32 → F32
  | acc, [] => acc
  | acc, x :: xs => fsum (fadd acc x) xs

/-- `chroma[p]` (R503). -/
def chromaByte (cfg : DspConfig) (ch : Vector F32 12) (p : Fin 12) : Byte :=
  q8 (fdiv ch[p] (ffloorAt (chromaMax ch).1 cfg.tun.minPeak))

/-- `chroma[0..11]` (R503). -/
def chromaBytes (cfg : DspConfig) (ch : Vector F32 12) : Vector Byte 12 := vec12 (chromaByte cfg ch)

/-- The peak ratio `pr` (R504). -/
def peakRatio (cfg : DspConfig) (ch : Vector F32 12) : F32 :=
  fdiv (ch.toList.getD (chromaMax ch).2 fzero)
    (ffloorAt (fdiv (fsum fzero ch.toList) (f32OfNat 12)) cfg.tun.minPeak)

/-- The dominant class and its strength (R505); NONE is 255 (R16). -/
def dominantPitch (cfg : DspConfig) (ch : Vector F32 12) : Byte × Byte :=
  if cfg.chFloor < (chromaBytes cfg ch).toList.getD (chromaMax ch).2 0#8
      ∧ fgt (peakRatio cfg ch) cfg.tun.confRatio = true then
    (BitVec.ofNat 8 (chromaMax ch).2, str8 (peakRatio cfg ch))
  else (255#8, 0#8)

end Sys2Proof.Machine
end

