-- ==== Sys2Proof/Machine/PeakVisual.lean ====
section
/-! DEFINITION. Peak frequency, visual compression and spectral flux, fourth stage of ANALYZE
(44_peak_flux_visual.md). The function `log1p` is an argument (R11, R26). -/

namespace Sys2Proof.Machine

/-! ## Peak frequency and magnitude -/

/-- The peak scan over `n` more bins from `b` on: the lowest bin wins ties (R601). -/
def peakScan (m : Nat → F32) : F32 → Nat → Nat → Nat → F32 × Nat
  | mxm, k, _, 0 => (mxm, k)
  | mxm, k, b, n + 1 =>
    if fgt (m b) mxm then peakScan m (m b) b (b + 1) n else peakScan m mxm k (b + 1) n

/-- `mxm` and `k` of R601. -/
def peakBin (m : Nat → F32) (r : BinRange) : F32 × Nat :=
  peakScan m (m r.lo.toNat) r.lo.toNat (r.lo.toNat + 1) (r.hi.toNat - r.lo.toNat)

/-- `den` of R602. -/
def parabolaDen (m : Nat → F32) (k : Nat) : F32 :=
  fadd (fsub (m (k - 1)) (fmul 0x40000000#32 (m k))) (m (k + 1))

/-- `off` of R602: parabolic interpolation, 0 at a range boundary or where `den` is zero. -/
def subBinOffset (m : Nat → F32) (r : BinRange) (k : Nat) : F32 :=
  if k ≠ r.lo.toNat ∧ k ≠ r.hi.toNat ∧ feq (parabolaDen m k) fzero = false then
    fmul 0x3F000000#32 (fdiv (fsub (m (k - 1)) (m (k + 1))) (parabolaDen m k))
  else fzero

/-- `nyq` of R602. -/
def nyquist (nBins : Nat) (binHz : F32) : F32 := fmul (f32OfNat nBins) binHz

/-- `fr` of R602 before the clamp. -/
def peakHz (m : Nat → F32) (r : BinRange) (binHz : F32) (k : Nat) : F32 :=
  fmul (fadd (f32OfNat k) (subBinOffset m r k)) binHz

/-- `pfreq` (R602): clamped to Nyquist and converted. -/
def peakFreq (nBins : Nat) (m : Nat → F32) (r : BinRange) (binHz : F32) (k : Nat) : BitVec 16 :=
  hz16 (if fgt (peakHz m r binHz k) (nyquist nBins binHz) then nyquist nBins binHz else peakHz m r binHz k)

/-- `clamp01(log1p(k ⊗ x) ⊘ log1p(k))` (R26, R603, R604). -/
def logCompress (log1p : F32 → F32) (k x : F32) : F32 := fclamp01 (fdiv (log1p (fmul k x)) (log1p k))

/-- `pmag` (R603). -/
def peakMag (log1p : F32 → F32) (cfg : DspConfig) (mxm : F32) : Byte := q8 (logCompress log1p cfg.tun.kPk mxm)

/-! ## Visual compression -/

/-- `tgt` of one band (R604). -/
def visTarget (log1p : F32 → F32) (cfg : DspConfig) (raw : F32) : F32 :=
  logCompress log1p cfg.tun.kVis (fmul raw cfg.tun.visScale)

/-- 70 % previous, 30 % target (R604). -/
def visBlend (prev tgt : F32) : F32 := fadd (fmul 0x3F333333#32 prev) (fmul 0x3E99999A#32 tgt)

/-- The new `vis[0..11]` (R604). -/
def nextVis (log1p : F32 → F32) (cfg : DspConfig) (n : Nat) (raw prev : Vector F32 12) : Vector F32 12 :=
  vec12 (fun i => if i.val < n then visBlend prev[i] (visTarget log1p cfg raw[i]) else fzero)

/-- The positive part of the change of a band's level, `d[i]` (R604). -/
def visRise (n : Nat) (vis prev : Vector F32 12) : Vector F32 12 :=
  vec12 (fun i => if i.val < n then fpos (fsub vis[i] prev[i]) else fzero)

/-- `delta[i]` (R605). -/
def visDelta (cfg : DspConfig) (d : F32) : Byte := q8 (fclamp01 (fmul d cfg.tun.deltaGain))

/-- `glob` (R606). -/
def globalLevel (n : Nat) (vis : Vector F32 12) : F32 :=
  fsqrt (fdiv (fsum fzero ((vis.toList.take n).map (fun v => fmul v v))) (f32OfNat n))

/-- The entries of the active bands whose bit is set in a mask, ascending (R606). -/
def maskedBands (mask : BitVec 12) (n : Nat) (vis : Vector F32 12) : List F32 :=
  ((List.range n).filter (fun i => mask.getLsbD i)).map (fun i => vis.toList.getD i fzero)

/-- `mean(M)` (R606). -/
def subsetMean (mask : BitVec 12) (n : Nat) (vis : Vector F32 12) : F32 :=
  match maskedBands mask n vis with
  | [] => fzero
  | v :: vs => fdiv (fsum fzero (v :: vs)) (f32OfNat (vs.length + 1))

/-- `flux` (R607). -/
def fluxByte (cfg : DspConfig) (n : Nat) (rise : Vector F32 12) : Byte :=
  q8 (fclamp01 (fmul cfg.tun.fluxScale (fsum fzero (rise.toList.take n))))

/-- `pkdet`, against the average before this tick's update (R608). -/
def peakDetected (cfg : DspConfig) (gavg glob : F32) : Bool :=
  fgt glob (fmul gavg cfg.tun.pkRatio) && fgt glob cfg.tun.pkFloor

/-- The new `gavg` (R608). -/
def nextGavg (cfg : DspConfig) (gavg glob : F32) : F32 := smooth cfg.tun.gammaPk gavg glob

/-- The 36 AUX bytes (R609, R322), from the updated levels, the rises and the average of the previous tick. -/
def auxFields (log1p : F32 → F32) (nBins : Nat) (cfg : DspConfig) (n : Nat) (m : Nat → F32)
    (vis rise : Vector F32 12) (gavg : F32) : List Byte :=
  (vec12 (fun i => q8 vis[i])).toList
    ++ (vec12 (fun i => visDelta cfg rise[i])).toList
    ++ [q8 (globalLevel n vis), q8 (subsetMean cfg.bassMask n vis), q8 (subsetMean cfg.midMask n vis),
        q8 (subsetMean cfg.trebMask n vis)]
    ++ bytesOfHalf (peakFreq nBins m cfg.pkRange cfg.tun.binHz (peakBin m cfg.pkRange).2)
    ++ [peakMag log1p cfg (peakBin m cfg.pkRange).1, fluxByte cfg n rise,
        boolByte (peakDetected cfg gavg (globalLevel n vis)), BitVec.ofNat 8 n, 0#8, 0#8]

end Sys2Proof.Machine
end

