-- ==== Sys2Proof/Machine/Vocal.lean ====
section
/-! DEFINITION. The vocal envelope, onset and sustain detector, third stage of ANALYZE (43_vocal_envelope.md). The stage
rewrites the vocal part of the DSP history state, rule by rule. -/

namespace Sys2Proof.Machine

/-- NONE (R16). -/
def pitchNone : Byte := 255#8

/-- `rawv` (R551). -/
def rawEnvelope (cfg : DspConfig) (m : Nat → F32) : F32 := fmul (rangeRms m cfg.vocRange) cfg.tun.vocScale

/-- The noise floor after this tick: seeded by the first sample, then near-unity decay (R552). -/
def nextFloor (cfg : DspConfig) (h : DspHistory) (rawv : F32) : F32 :=
  if h.floorSeeded then smooth cfg.tun.betaFloor h.nfloor rawv else rawv

/-- The gated envelope from the raw value and the updated floor (R553). -/
def gateEnvelope (cfg : DspConfig) (rawv nfloor : F32) : F32 :=
  fclamp01 (fmul (fpos (fsub rawv (fmul nfloor cfg.tun.vocMargin))) cfg.tun.gateScale)

/-- The smoothed envelope: attack when rising, else release (R554). -/
def nextEnv (cfg : DspConfig) (prev gated : F32) : F32 :=
  if fgt gated prev then fadd prev (fmul cfg.tun.attack (fsub gated prev))
  else fadd prev (fmul cfg.tun.releaseCoef (fsub gated prev))

/-- A 16-bit count up to 65535 (R556, R720). -/
def satInc16 (c : BitVec 16) : BitVec 16 := if c = 65535#16 then 65535#16 else c + 1#16

/-- An 8-bit count up to 255 (R558). -/
def satInc8 (c : Byte) : Byte := if c = 255#8 then 255#8 else c + 1#8

/-- The onset test on the counted-up `since_onset` (R556). -/
def isOnset (cfg : DspConfig) (env delta : F32) (since : BitVec 16) : Bool :=
  fgt env cfg.tun.onsetThr && fgt delta cfg.tun.slopeThr && decide (cfg.refract ≤ since)

/-- `confident` (R557). -/
def isConfident (cfg : DspConfig) (dom pstr : Byte) : Bool :=
  dom != pitchNone && decide (cfg.noteMinStr ≤ pstr)

/-- Sustain, exit test (R558). -/
def sustainExit (cfg : DspConfig) (env : F32) (h : DspHistory) : DspHistory :=
  if h.susActive && flt env cfg.tun.susRelease then { h with susActive := false } else h

/-- Sustain, the candidate run (R558). -/
def sustainCandidate (cfg : DspConfig) (env : F32) (dom : Byte) (h : DspHistory) : DspHistory :=
  if dom != pitchNone && fgt env cfg.tun.susEngage then
    (if dom = h.candPc then { h with candCnt := satInc8 h.candCnt }
     else { h with candPc := dom, candCnt := 1#8 })
  else { h with candPc := pitchNone, candCnt := 0#8 }

/-- Sustain, entry (R558). -/
def sustainEnter (cfg : DspConfig) (h : DspHistory) : DspHistory :=
  if cfg.susN ≤ h.candCnt then { h with susActive := true, susPc := h.candPc } else h

/-- Note attribution, after the onset and sustain rules (R559). -/
def attributeNote (cfg : DspConfig) (onset : Bool) (dom pstr : Byte) (h : DspHistory) : DspHistory :=
  if onset then
    (if isConfident cfg dom pstr then { h with note := dom, nstr := pstr }
     else { h with note := pitchNone, nstr := 0#8 })
  else if h.sinceOnset.toNat ≤ cfg.postWin.toNat then
    (if h.note = pitchNone ∧ isConfident cfg dom pstr = true then { h with note := dom, nstr := pstr } else h)
  else if h.susActive then { h with note := h.susPc, nstr := pstr }
  else { h with note := pitchNone, nstr := 0#8 }

/-- The envelope part of the stage: floor, gate, smoothing (R552 to R554). -/
def envelopeStep (cfg : DspConfig) (m : Nat → F32) (h : DspHistory) : DspHistory :=
  { h with
    nfloor := nextFloor cfg h (rawEnvelope cfg m)
    floorSeeded := true
    env := nextEnv cfg h.env
      (gateEnvelope cfg (rawEnvelope cfg m) (nextFloor cfg h (rawEnvelope cfg m))) }

/-- Whether this tick is an onset, given the history before and after the envelope step (R554, R556). -/
def onsetAt (cfg : DspConfig) (before after : DspHistory) : Bool :=
  isOnset cfg after.env (fsub after.env before.env) (satInc16 before.sinceOnset)

/-- `since_onset` after this tick (R556). -/
def onsetStep (onset : Bool) (h : DspHistory) : DspHistory :=
  { h with sinceOnset := if onset then 0#16 else satInc16 h.sinceOnset }

/-- The vocal stage in the order of R552 to R559: the new history and the onset flag. -/
def vocalStage (cfg : DspConfig) (m : Nat → F32) (dom pstr : Byte) (h : DspHistory) : DspHistory × Bool :=
  let e := envelopeStep cfg m h
  let onset := onsetAt cfg h e
  let o := onsetStep onset e
  let u := sustainEnter cfg (sustainCandidate cfg o.env dom (sustainExit cfg o.env o))
  (attributeNote cfg onset dom pstr u, onset)

/-- The lock flag: a note is currently attributed (R560). -/
def lockFlag (h : DspHistory) : Bool := h.note != pitchNone

end Sys2Proof.Machine
end

