-- ==== Sys2Proof/Machine/Analyze.lean ====
section
/-! DEFINITION. ANALYZE (40_command_engine.md R402, R403): the configuration checks, the four stages, the payload images
and the automatic frames. -/

namespace Sys2Proof.Machine

/-- A range ANALYZE refuses: LO > HI or HI ≥ N_BINS (R402). -/
def badRange (nBins : Nat) (r : BinRange) : Bool := decide (r.hi < r.lo) || decide (nBins ≤ r.hi.toNat)

/-- The lowest active band whose range is refused, if any (R402, R809). For an NBANDS no run holds: notes/assumptions/19.md. -/
def badBand (nBins n : Nat) (cfg : DspConfig) : Option Nat :=
  (List.range n).find? (fun i => badRange nBins (cfg.bandRange.toList.getD i BinRange.reset))

/-- The bits of the active bands, `act` (R402). -/
def activeMask (n : Nat) : BitVec 12 := BitVec.ofNat 12 (2 ^ n - 1)

/-- Two of the three masks share an active band (R402). -/
def masksOverlap (n : Nat) (cfg : DspConfig) : Bool :=
  ((cfg.bassMask &&& cfg.midMask) ||| (cfg.bassMask &&& cfg.trebMask) ||| (cfg.midMask &&& cfg.trebMask))
    &&& activeMask n != 0#12

/-- The first failing configuration check, as the error and its DETAIL (R402, R801, R809). -/
def analyzeCheck (nBins n : Nat) (cfg : DspConfig) : Option (CmdErrCode × Byte) :=
  match badBand nBins n cfg with
  | some i => some (.cfgRange, BitVec.ofNat 8 i)
  | none =>
    if badRange nBins cfg.chRange then some (.cfgRange, 12#8)
    else if badRange nBins cfg.vocRange then some (.cfgRange, 13#8)
    else if badRange nBins cfg.pkRange then some (.cfgRange, 14#8)
    else if masksOverlap n cfg then some (.cfgMask, 0#8)
    else none

/-- `N = CTRL.NBANDS` (R402). -/
def State.activeBands (s : State) : Nat := s.ctrl.nbands.toNat

/-- The raw band energies of this tick (R452, R454). -/
def State.tickRaw (s : State) : Vector F32 12 := rawBands s.cfg s.activeBands s.mag

/-- The smoothed band energies after this tick (R453, R454). -/
def State.tickBandSm (s : State) : Vector F32 12 := smoothBands s.cfg s.activeBands s.tickRaw s.dsp.bandSm

/-- The smoothed chroma after this tick (R502). -/
def State.tickChSm (s : State) : Vector F32 12 := smoothChroma s.cfg s.mag s.lut s.dsp.chSm

/-- The dominant class and strength of this tick (R505). -/
def State.tickPitch (s : State) : Byte × Byte := dominantPitch s.cfg s.tickChSm

/-- The vocal stage of this tick: the history with its vocal part rewritten, and the onset flag (R550). -/
def State.tickVocal (s : State) : DspHistory × Bool :=
  vocalStage s.cfg s.mag s.tickPitch.1 s.tickPitch.2 s.dsp

/-- The visual levels after this tick (R604). -/
def State.tickVis (log1p : F32 → F32) (s : State) : Vector F32 12 :=
  nextVis log1p s.cfg s.activeBands s.tickRaw s.dsp.vis

/-- The DSP history state after this tick (R150). -/
def State.tickHistory (log1p : F32 → F32) (s : State) : DspHistory :=
  { s.tickVocal.1 with
    bandSm := s.tickBandSm
    chSm := s.tickChSm
    vis := s.tickVis log1p
    gavg := nextGavg s.cfg s.dsp.gavg (globalLevel s.activeBands (s.tickVis log1p)) }

/-- The 68 FEATURE bytes (R320, R402). -/
def featFields (h : DspHistory) (onset : Bool) (chroma : Vector Byte 12) (dom pstr : Byte) : List Byte :=
  h.bandSm.toList.flatMap bytesOfWord
    ++ [q8 h.env, boolByte onset, h.note, h.nstr, boolByte (lockFlag h)]
    ++ chroma.toList ++ [dom, pstr, boolByte h.susActive]

/-- The FEATURE payload of this tick. -/
def State.tickFeat (log1p : F32 → F32) (s : State) : List Byte :=
  featFields (s.tickHistory log1p) s.tickVocal.2 (chromaBytes s.cfg s.tickChSm) s.tickPitch.1 s.tickPitch.2

/-- The AUX payload of this tick. -/
def State.tickAux (log1p : F32 → F32) (s : State) : List Byte :=
  auxFields log1p s.param.nBins s.cfg s.activeBands s.mag (s.tickVis log1p)
    (visRise s.activeBands (s.tickVis log1p) s.dsp.vis) s.dsp.gavg

/-- One analysis tick: history, payload images, TICK_CNT and TICK_DONE (R402). -/
def State.analyzeTick (log1p : F32 → F32) (s : State) : State :=
  ({ s with
      dsp := s.tickHistory log1p
      mem := memWriteBytes (memWriteBytes s.mem featImgBase (s.tickFeat log1p)) auxImgBase (s.tickAux log1p)
      tickCnt := s.tickCnt + 1#32 }).raiseIrq irqTickDone

/-- `gate_open` (R403): some active band's energy exceeds the silence threshold. -/
def State.gateOpen (s : State) : Bool :=
  (s.dsp.bandSm.toList.take s.activeBands).any (fun e => fgt e s.cfg.tun.silenceThr)

/-- The automatic FEATURE frame (R402, R403). -/
def State.autoFeature (s : State) : State :=
  if s.ctrl.autoFeat && s.gateOpen then s.encodeFrame 0x01#8 .feature s.featImage else s

/-- The automatic AUX frame (R402). -/
def State.autoAux (s : State) : State :=
  if s.ctrl.autoAux then s.encodeFrame 0x01#8 .aux s.auxImage else s

/-- ANALYZE's pseudocode (R402). -/
def State.analyze (log1p : F32 → F32) (s : State) : State :=
  match analyzeCheck s.param.nBins s.activeBands s.cfg with
  | some (code, detail) => s.raiseCmdError code 0x01#8 detail
  | none => (s.analyzeTick log1p).autoFeature.autoAux

/-- ANALYZE (R402). -/
def execAnalyze (s : State) : Host.Outcome State Fault Refusal := .next (s.analyze Config.num.fn).finishCommand

end Sys2Proof.Machine
end

