-- ==== Sys2Proof/Machine/Frames.lean ====
section
/-! DEFINITION. What a complete candidate frame at the front of the decoder buffer does (46_frame_decoder.md R703, R705,
R706, R712): the EOF check, the CRC check, the delivery. -/

namespace Sys2Proof.Machine

/-- The frame's CRC field is the CRC of type, seq, len and payload (R312, R706). -/
def frameCrcOk (t : FrameType) (seq : Byte) (payload : List Byte) (crc : BitVec 16) : Bool :=
  crc16 (crcCovered t seq payload) == crc

/-- One pass of Evaluate over a complete candidate frame (R703): FramingError, then ChecksumError, each followed by
Resync; or the delivery, after which the buffer is cleared with whatever stands behind the frame (R714). -/
def State.receiveFrame (s : State) (t : FrameType) (seq : Byte) (payload : List Byte) (crc : BitVec 16)
    (eof : Byte) : State :=
  if eof ≠ eofByte then (s.raiseDecError .framingError).resync
  else if frameCrcOk t seq payload crc = false then (s.raiseDecError .checksumError).resync
  else (s.dispatchFrame t seq payload).clearBuffer

/-- A candidate FEATURE frame (R703, R320). -/
def execFrameFeature (seq : Byte) (payload : List Byte) (crc : BitVec 16) (eof : Byte) (s : State) :
    Host.Outcome State Fault Refusal :=
  .next (s.receiveFrame .feature seq payload crc eof)

/-- A candidate COMMAND frame (R703, R323): a received COMMAND changes nothing else in the block (R712). -/
def execFrameCommand (seq : Byte) (payload : List Byte) (crc : BitVec 16) (eof : Byte) (s : State) :
    Host.Outcome State Fault Refusal :=
  .next (s.receiveFrame .command seq payload crc eof)

/-- A candidate AUX frame (R703, R322). -/
def execFrameAux (seq : Byte) (payload : List Byte) (crc : BitVec 16) (eof : Byte) (s : State) :
    Host.Outcome State Fault Refusal :=
  .next (s.receiveFrame .aux seq payload crc eof)

end Sys2Proof.Machine
end

