-- ==== Sys2Proof/Machine/Maintenance.lean ====
section
/-! DEFINITION. NOP and the reset and maintenance commands (40_command_engine.md section 4), and the completion of an
illegal command word (30_encoding.md R302). -/

namespace Sys2Proof.Machine

/-- NOP (R409). -/
def execNop (s : State) : Host.Outcome State Fault Refusal := .next s.finishCommand

/-- RESET_DSP (R407). -/
def execResetDsp (s : State) : Host.Outcome State Fault Refusal := .next s.clearDsp.finishCommand

/-- RESET_DECODER (R408): no error is recorded and no counter moves. -/
def execResetDecoder (s : State) : Host.Outcome State Fault Refusal := .next s.resetDecoder.finishCommand

/-- CLEAR_COUNTERS (R411). -/
def execClearCounters (s : State) : Host.Outcome State Fault Refusal :=
  .next ({ s with cnt := Counters.zero, cmdErr := 0#32, decErr := 0#32 }).finishCommand

/-- RESET_SEQ (R412). -/
def execResetSeq (s : State) : Host.Outcome State Fault Refusal :=
  .next ({ s with seqTx := PerType.zero }).finishCommand

/-- FLUSH_TX (R413). -/
def execFlushTx (s : State) : Host.Outcome State Fault Refusal := .next ({ s with txFifo := [] }).finishCommand

/-- A reserved OP, and SEND_RAW with TYPE = 0, complete with BAD_OPCODE and do nothing else (R302, R801). -/
def State.badOpcode (s : State) (op : Byte) : State := (s.raiseCmdError .badOpcode op 0#8).finishCommand

end Sys2Proof.Machine
end

