-- ==== Sys2Proof/Machine/Send.lean ====
section
/-! DEFINITION. The frame-sending commands (40_command_engine.md section 3). -/

namespace Sys2Proof.Machine

/-- SEND_FEATURE (R404): the FEATURE image as a frame, without the silence gate. -/
def execSendFeature (s : State) : Host.Outcome State Fault Refusal :=
  .next (s.encodeFrame 0x02#8 .feature s.featImage).finishCommand

/-- SEND_AUX (R410). -/
def execSendAux (s : State) : Host.Outcome State Fault Refusal :=
  .next (s.encodeFrame 0x03#8 .aux s.auxImage).finishCommand

/-- SEND_COMMAND (R405): a COMMAND frame built from TX_CMD. -/
def execSendCommand (s : State) : Host.Outcome State Fault Refusal :=
  .next (s.encodeFrame 0x04#8 .command (commandPayload s.txCmd)).finishCommand

/-- SEND_RAW with TYPE = FEATURE (R406). -/
def execSendRawFeature (s : State) : Host.Outcome State Fault Refusal :=
  .next (s.encodeFrame 0x05#8 .feature (s.txRaw 68)).finishCommand

/-- SEND_RAW with TYPE = COMMAND (R406). -/
def execSendRawCommand (s : State) : Host.Outcome State Fault Refusal :=
  .next (s.encodeFrame 0x05#8 .command (s.txRaw 68)).finishCommand

/-- SEND_RAW with TYPE = AUX (R406): bytes 36 to 67 of TX_RAW are not sent. -/
def execSendRawAux (s : State) : Host.Outcome State Fault Refusal :=
  .next (s.encodeFrame 0x05#8 .aux (s.txRaw 36)).finishCommand

end Sys2Proof.Machine
end

