-- ==== Sys2Proof/Machine/Dispatch.lean ====
section
/-! DEFINITION. One arm for each instruction. -/

namespace Sys2Proof.Machine

def exec (i : Instr) (s : State) : Host.Outcome State Fault Refusal :=
  match i with
  | .nop => Sys2Proof.Machine.execNop s
  | .analyze => Sys2Proof.Machine.execAnalyze s
  | .sendFeature => Sys2Proof.Machine.execSendFeature s
  | .sendAux => Sys2Proof.Machine.execSendAux s
  | .sendCommand => Sys2Proof.Machine.execSendCommand s
  | .sendRawFeature => Sys2Proof.Machine.execSendRawFeature s
  | .sendRawCommand => Sys2Proof.Machine.execSendRawCommand s
  | .sendRawAux => Sys2Proof.Machine.execSendRawAux s
  | .resetDsp => Sys2Proof.Machine.execResetDsp s
  | .resetDecoder => Sys2Proof.Machine.execResetDecoder s
  | .clearCounters => Sys2Proof.Machine.execClearCounters s
  | .resetSeq => Sys2Proof.Machine.execResetSeq s
  | .flushTx => Sys2Proof.Machine.execFlushTx s
  | .frameFeature seq payload crc eof => Sys2Proof.Machine.execFrameFeature seq payload crc eof s
  | .frameCommand seq payload crc eof => Sys2Proof.Machine.execFrameCommand seq payload crc eof s
  | .frameAux seq payload crc eof => Sys2Proof.Machine.execFrameAux seq payload crc eof s

end Sys2Proof.Machine
end

