-- ==== Sys2Proof/Machine/Receive.lean ====
section
/-! DEFINITION. The decoder's byte step and timebase step (46_frame_decoder.md R700 to R721). -/

namespace Sys2Proof.Machine

/-- Evaluate's loop (R703). A complete candidate frame is decoded and run as the instruction it spells; an unknown
header is a LengthMismatch (R704). Every pass that goes on leaves a shorter buffer (R708), so `blen` passes are enough
(DEDUCED: notes/assumptions/15.md). -/
def evaluate : Nat → State → Host.Outcome State Fault Refusal
  | 0, s => .next s
  | n + 1, s =>
    match decodeCandidate s.dec.bytes with
    | .ok (i, _) => andThen (exec i s) (evaluate n)
    | .error (.lengthMismatch _ _) => evaluate n (s.raiseDecError .lengthMismatch).resync
    | .error _ => .next s

/-- A byte is taken: `stale_cnt` returns to 0 (R701), and a `tb_tick` of the same cycle is ignored (R720), also when
SEEKING_SOF drops the byte (DEDUCED, safe: notes/assumptions/16.md). -/
def State.noteByte (s : State) : State :=
  { s with dec := { s.dec with staleCnt := 0#16 }, now := { s.now with byteTaken := true } }

/-- The first byte of a frame (R701). -/
def Decoder.begin (d : Decoder) (x : Byte) : Decoder :=
  { d with dbuf := d.dbuf.set 0 x, blen := 1, dstate := .accumulating }

/-- A further byte at index `blen` (R701). -/
def Decoder.append (d : Decoder) (x : Byte) (h : d.blen < 75) : Decoder :=
  { d with dbuf := d.dbuf.set d.blen x, blen := d.blen + 1 }

/-- The byte step (R701). The fault is the model's own (DEDUCED, safe: notes/assumptions/9.md). -/
def byteStep (x : Byte) (s : State) : Host.Outcome State Fault Refusal :=
  match s.dec.dstate with
  | .seekingSof =>
    if x = sofByte then .next { s.noteByte with dec := s.noteByte.dec.begin x } else .next s.noteByte
  | .accumulating =>
    if h : s.noteByte.dec.blen < 75 then
      evaluate (s.dec.blen + 1) { s.noteByte with dec := s.noteByte.dec.append x h }
    else .fault .decoderBufferOverrun

/-- A byte of the `rx` port (R700): taken when RX_EN = 1 and RX_SRC = 0, else discarded without a trace. -/
def rxPortStep (x : Byte) (s : State) : Host.Outcome State Fault Refusal :=
  if s.ctrl.rxEn && !s.ctrl.rxSrc then byteStep x s else .next s

/-- A host write to RX_PUSH (R114, R700): taken when RX_EN = 1 and RX_SRC = 1, else ignored. -/
def rxPushStep (x : Byte) (s : State) : Host.Outcome State Fault Refusal :=
  if s.ctrl.rxEn && s.ctrl.rxSrc then byteStep x s else .next s

/-- `stale_cnt` counted up by one strobe, up to 65535 (R720). -/
def nextStale (c : BitVec 16) : BitVec 16 := if c = 65535#16 then 65535#16 else c + 1#16

/-- One more strobe with a non-empty buffer (R720). -/
def State.countStale (s : State) : State :=
  { s with dec := { s.dec with staleCnt := nextStale s.dec.staleCnt } }

/-- The stale timeout fires (R720): StaleFrame, and a hard clear without a rescan. -/
def State.staleClear (s : State) : State :=
  let r := (s.raiseDecError .staleFrame).clearBuffer
  { r with dec := { r.dec with staleCnt := 0#16 } }

/-- The timebase step of a `tb_tick` strobe (R720). -/
def timebaseStep (s : State) : State :=
  if s.now.byteTaken then s
  else if s.dec.dstate = .accumulating ∧ s.staleTimeout ≠ 0#16 then
    (if s.staleTimeout ≤ s.countStale.dec.staleCnt then s.countStale.staleClear else s.countStale)
  else s

end Sys2Proof.Machine
end

