-- ==== Sys2Proof/Machine/Registers.lean ====
section
/-! DEFINITION. The register map (10_state.md R100) and what every register reads (R101 to R134). -/

namespace Sys2Proof.Machine

/-- The real-valued tunables by name (R120). -/
inductive TunableId where
  | calGain
  | alphaBand
  | alphaChroma
  | betaFloor
  | minPeak
  | confRatio
  | vocScale
  | vocMargin
  | gateScale
  | attack
  | releaseCoef
  | onsetThr
  | slopeThr
  | susEngage
  | susRelease
  | binHz
  | kPk
  | visScale
  | kVis
  | deltaGain
  | fluxScale
  | gammaPk
  | pkRatio
  | pkFloor
  | silenceThr
  deriving DecidableEq, Repr

/-- The registers of the map (R100). -/
inductive Reg where
  | id
  | param
  | ctrl
  | status
  | cmd
  | irqStatus
  | irqEnable
  | cmdErr
  | decErr
  | staleTimeout
  | txLevel
  | txData
  | rxPush
  | txCmd
  | seqTx
  | seqRx
  | tickCnt
  | cntRxOk
  | cntLenErr
  | cntFrameErr
  | cntCrcErr
  | cntStale
  | cntTxDrop
  | tunable (t : TunableId)
  | chFloor
  | chRange
  | vocRange
  | pkRange
  | refract
  | noteMinStr
  | postWin
  | susN
  | bassMask
  | midMask
  | trebMask
  | bandRange (i : Fin 12)
  | tilt (i : Fin 12)
  | pclassLut (w : Fin 128)
  | featImg (w : Fin 17)
  | auxImg (w : Fin 9)
  | rxFeat (w : Fin 17)
  | rxCmd (w : Fin 17)
  | rxAux (w : Fin 9)
  | txRaw (w : Fin 17)
  | dbgChromaSm (p : Fin 12)
  | dbgVisLevel (i : Fin 12)
  | dbgGlobalAvg
  | dbgNoiseFloor
  | dbgEnv
  | dbgOnset
  | dbgNote
  | dbgSustain
  | dbgDec
  | dbgDecBuf (w : Fin 19)
  | bin (b : Fin 1024)
  | reserved
  deriving DecidableEq, Repr

/-- Control and status registers, by offset (R100). -/
def controlRegs : List (Nat × Reg) :=
  [(0x000, .id), (0x004, .param), (0x008, .ctrl), (0x00C, .status), (0x010, .cmd), (0x014, .irqStatus),
    (0x018, .irqEnable), (0x01C, .cmdErr), (0x020, .decErr), (0x024, .staleTimeout), (0x028, .txLevel),
    (0x02C, .txData), (0x030, .rxPush), (0x034, .txCmd), (0x038, .seqTx), (0x03C, .seqRx), (0x040, .tickCnt),
    (0x044, .cntRxOk), (0x048, .cntLenErr), (0x04C, .cntFrameErr), (0x050, .cntCrcErr), (0x054, .cntStale),
    (0x058, .cntTxDrop)]

/-- DSP configuration registers of one word, by offset (R120 to R123). -/
def configRegs : List (Nat × Reg) :=
  [(0x100, .tunable .calGain), (0x104, .tunable .alphaBand), (0x108, .tunable .alphaChroma),
    (0x10C, .tunable .betaFloor), (0x110, .tunable .minPeak), (0x114, .tunable .confRatio), (0x118, .chFloor),
    (0x11C, .chRange), (0x120, .vocRange), (0x124, .pkRange), (0x128, .tunable .vocScale),
    (0x12C, .tunable .vocMargin), (0x130, .tunable .gateScale), (0x134, .tunable .attack),
    (0x138, .tunable .releaseCoef), (0x13C, .tunable .onsetThr), (0x140, .tunable .slopeThr), (0x144, .refract),
    (0x148, .noteMinStr), (0x14C, .postWin), (0x150, .susN), (0x154, .tunable .susEngage),
    (0x158, .tunable .susRelease), (0x15C, .tunable .binHz), (0x160, .tunable .kPk), (0x164, .tunable .visScale),
    (0x168, .tunable .kVis), (0x16C, .tunable .deltaGain), (0x170, .tunable .fluxScale),
    (0x174, .tunable .gammaPk), (0x178, .tunable .pkRatio), (0x17C, .tunable .pkFloor),
    (0x180, .tunable .silenceThr), (0x184, .bassMask), (0x188, .midMask), (0x18C, .trebMask)]

/-- Debug registers of one word, by offset (R131). -/
def debugRegs : List (Nat × Reg) :=
  [(0x960, .dbgGlobalAvg), (0x964, .dbgNoiseFloor), (0x968, .dbgEnv), (0x96C, .dbgOnset), (0x970, .dbgNote),
    (0x974, .dbgSustain), (0x978, .dbgDec)]

/-- The registers of one word, by offset. -/
def singleRegs : List (Nat × Reg) := controlRegs ++ configRegs ++ debugRegs

/-- Word `w` of an array register of `n` words at `base`, if the offset lies in it. -/
def inArray (base n : Nat) (mk : Fin n → Reg) (off : Nat) : Option Reg :=
  if h : base ≤ off ∧ (off - base) / 4 < n then some (mk ⟨(off - base) / 4, h.2⟩) else none

/-- The array registers and windows an offset may lie in (R100); at most one answers. -/
def arrayRegs (off : Nat) : List (Option Reg) :=
  [inArray 0x1C0 12 .bandRange off, inArray 0x200 12 .tilt off, inArray 0x400 128 .pclassLut off,
    inArray 0x600 17 .featImg off, inArray 0x680 9 .auxImg off, inArray 0x700 17 .rxFeat off,
    inArray 0x780 17 .rxCmd off, inArray 0x800 9 .rxAux off, inArray 0x880 17 .txRaw off,
    inArray 0x900 12 .dbgChromaSm off, inArray 0x930 12 .dbgVisLevel off, inArray 0xA00 19 .dbgDecBuf off,
    inArray 0x1000 1024 .bin off]

/-- The first register found, or `reserved`. -/
def firstReg : List (Option Reg) → Reg
  | [] => .reserved
  | some r :: _ => r
  | none :: rest => firstReg rest

/-- The register at an aligned offset; every gap of the map is reserved (R100, R134). -/
def regAt (off : Nat) : Reg :=
  match singleRegs.lookup off with
  | some r => r
  | none => firstReg (arrayRegs off)

/-- Engine-owned registers (R140): CTRL, TX_CMD, the DSP configuration, BAND_RANGE, TILT, PCLASS_LUT, TX_RAW and BIN
RAM, its words at `N_BINS` or above too (DEDUCED: notes/assumptions/10.md). -/
def Reg.engineOwned : Reg → Bool
  | .ctrl => true
  | .txCmd => true
  | .tunable _ => true
  | .chFloor => true
  | .chRange => true
  | .vocRange => true
  | .pkRange => true
  | .refract => true
  | .noteMinStr => true
  | .postWin => true
  | .susN => true
  | .bassMask => true
  | .midMask => true
  | .trebMask => true
  | .bandRange _ => true
  | .tilt _ => true
  | .pclassLut _ => true
  | .txRaw _ => true
  | .bin _ => true
  | _ => false

/-- The value of a real-valued tunable. -/
def tunableGet (t : Tunables) : TunableId → F32
  | .calGain => t.calGain
  | .alphaBand => t.alphaBand
  | .alphaChroma => t.alphaChroma
  | .betaFloor => t.betaFloor
  | .minPeak => t.minPeak
  | .confRatio => t.confRatio
  | .vocScale => t.vocScale
  | .vocMargin => t.vocMargin
  | .gateScale => t.gateScale
  | .attack => t.attack
  | .releaseCoef => t.releaseCoef
  | .onsetThr => t.onsetThr
  | .slopeThr => t.slopeThr
  | .susEngage => t.susEngage
  | .susRelease => t.susRelease
  | .binHz => t.binHz
  | .kPk => t.kPk
  | .visScale => t.visScale
  | .kVis => t.kVis
  | .deltaGain => t.deltaGain
  | .fluxScale => t.fluxScale
  | .gammaPk => t.gammaPk
  | .pkRatio => t.pkRatio
  | .pkFloor => t.pkFloor
  | .silenceThr => t.silenceThr

/-- Replace a real-valued tunable: any pattern is stored (R120). -/
def tunableSet (t : Tunables) (v : F32) : TunableId → Tunables
  | .calGain => { t with calGain := v }
  | .alphaBand => { t with alphaBand := v }
  | .alphaChroma => { t with alphaChroma := v }
  | .betaFloor => { t with betaFloor := v }
  | .minPeak => { t with minPeak := v }
  | .confRatio => { t with confRatio := v }
  | .vocScale => { t with vocScale := v }
  | .vocMargin => { t with vocMargin := v }
  | .gateScale => { t with gateScale := v }
  | .attack => { t with attack := v }
  | .releaseCoef => { t with releaseCoef := v }
  | .onsetThr => { t with onsetThr := v }
  | .slopeThr => { t with slopeThr := v }
  | .susEngage => { t with susEngage := v }
  | .susRelease => { t with susRelease := v }
  | .binHz => { t with binHz := v }
  | .kPk => { t with kPk := v }
  | .visScale => { t with visScale := v }
  | .kVis => { t with kVis := v }
  | .deltaGain => { t with deltaGain := v }
  | .fluxScale => { t with fluxScale := v }
  | .gammaPk => { t with gammaPk := v }
  | .pkRatio => { t with pkRatio := v }
  | .pkFloor => { t with pkFloor := v }
  | .silenceThr => { t with silenceThr := v }

/-- What CTRL reads (R103). -/
def wordOfCtrl (c : Ctrl) : Word :=
  0#20 ++ c.nbands ++ 0#3 ++ boolBit c.txSink ++ boolBit c.rxSrc ++ boolBit c.autoAux ++ boolBit c.autoFeat
    ++ boolBit c.rxEn

/-- What STATUS reads (R105). -/
def State.statusWord (s : State) : Word :=
  0#17 ++ BitVec.ofNat 7 s.dec.blen ++ 0#5 ++ boolBit s.txEmpty ++ boolBit s.decAcc ++ boolBit s.busy

/-- What DBG_SUSTAIN reads (R131). -/
def sustainWord (h : DspHistory) : Word :=
  0#6 ++ boolBit h.floorSeeded ++ boolBit h.susActive ++ h.susPc ++ h.candCnt ++ h.candPc

/-- What DBG_DEC reads (R131). -/
def State.decWord (s : State) : Word :=
  s.dec.staleCnt ++ 0#1 ++ BitVec.ofNat 7 s.dec.blen ++ 0#7 ++ boolBit s.decAcc

/-- Byte `k` of DBG_DEC_BUF: 0 at `blen` and above (R132). -/
def decBufByte (d : Decoder) (k : Nat) : Byte := d.bytes.getD k 0#8

/-- What TX_DATA reads (R113): VALID in bit 8 and the oldest byte, when TX_SINK = 1 and the FIFO holds one. -/
def State.txDataWord (s : State) : Word :=
  match s.ctrl.txSink, s.txFifo with
  | true, b :: _ => 0#23 ++ 1#1 ++ b
  | _, _ => 0#32

/-- What a register reads, for the current state (R201). CMD and RX_PUSH are write-only and read 0 (R106, R114). -/
def State.readReg (s : State) : Reg → Word
  | .id => 0x4F4D5207#32
  | .param => BitVec.ofNat 16 s.param.txqDepth ++ 0#5 ++ BitVec.ofNat 11 s.param.nBins
  | .ctrl => wordOfCtrl s.ctrl
  | .status => s.statusWord
  | .cmd => 0#32
  | .irqStatus => 0#25 ++ s.irqStatus
  | .irqEnable => 0#25 ++ s.irqEnable
  | .cmdErr => s.cmdErr
  | .decErr => s.decErr
  | .staleTimeout => 0#16 ++ s.staleTimeout
  | .txLevel => 0#16 ++ BitVec.ofNat 16 s.txFifo.length
  | .txData => s.txDataWord
  | .rxPush => 0#32
  | .txCmd => wordOfTxCmd s.txCmd
  | .seqTx => wordOfPerType s.seqTx
  | .seqRx => wordOfPerType s.seqRx
  | .tickCnt => s.tickCnt
  | .cntRxOk => s.cnt.rxOk
  | .cntLenErr => s.cnt.lenErr
  | .cntFrameErr => s.cnt.frameErr
  | .cntCrcErr => s.cnt.crcErr
  | .cntStale => s.cnt.stale
  | .cntTxDrop => s.cnt.txDrop
  | .tunable t => tunableGet s.cfg.tun t
  | .chFloor => 0#24 ++ s.cfg.chFloor
  | .chRange => wordOfRange s.cfg.chRange
  | .vocRange => wordOfRange s.cfg.vocRange
  | .pkRange => wordOfRange s.cfg.pkRange
  | .refract => 0#16 ++ s.cfg.refract
  | .noteMinStr => 0#24 ++ s.cfg.noteMinStr
  | .postWin => 0#24 ++ s.cfg.postWin
  | .susN => 0#24 ++ s.cfg.susN
  | .bassMask => 0#20 ++ s.cfg.bassMask
  | .midMask => 0#20 ++ s.cfg.midMask
  | .trebMask => 0#20 ++ s.cfg.trebMask
  | .bandRange i => wordOfRange s.cfg.bandRange[i]
  | .tilt i => s.cfg.tilt[i]
  | .pclassLut w => memReadWord s.mem (lutBase + 4 * w.val)
  | .featImg w => memReadWord s.mem (featImgBase + 4 * w.val)
  | .auxImg w => memReadWord s.mem (auxImgBase + 4 * w.val)
  | .rxFeat w => memReadWord s.mem (rxBase .feature + 4 * w.val)
  | .rxCmd w => memReadWord s.mem (rxBase .command + 4 * w.val)
  | .rxAux w => memReadWord s.mem (rxBase .aux + 4 * w.val)
  | .txRaw w => memReadWord s.mem (txRawBase + 4 * w.val)
  | .dbgChromaSm p => s.dsp.chSm[p]
  | .dbgVisLevel i => s.dsp.vis[i]
  | .dbgGlobalAvg => s.dsp.gavg
  | .dbgNoiseFloor => s.dsp.nfloor
  | .dbgEnv => s.dsp.env
  | .dbgOnset => 0#16 ++ s.dsp.sinceOnset
  | .dbgNote => 0#16 ++ s.dsp.nstr ++ s.dsp.note
  | .dbgSustain => sustainWord s.dsp
  | .dbgDec => s.decWord
  | .dbgDecBuf w =>
    wordOfBytes (decBufByte s.dec (4 * w.val)) (decBufByte s.dec (4 * w.val + 1))
      (decBufByte s.dec (4 * w.val + 2)) (decBufByte s.dec (4 * w.val + 3))
  | .bin b => s.bin b.val
  | .reserved => 0#32

end Sys2Proof.Machine
end

