-- ==== Sys2Proof/Machine/Bus.lean ====
section
/-! DEFINITION. The host bus (20_memory.md R201 to R206): what a write to every register does, the one read with a side
effect, and the accesses that get the error response. -/

namespace Sys2Proof.Machine

/-- Issue of a command (R400): accepted when the engine is empty, else dropped with CMD_BUSY. -/
def State.issueCommand (s : State) (w : Word) : State :=
  match s.pending with
  | some _ => s.raiseCmdError .cmdBusy (opField w) 0#8
  | none => { s with pending := some { op := opField w, typ := typeField w } }

/-- The NBANDS a CTRL write leaves: WARL, legal values 1 to 12 (R104). -/
def legalNbands (old new : BitVec 4) : BitVec 4 := if 1#4 ≤ new ∧ new ≤ 12#4 then new else old

/-- CTRL after a write (R103, R104). -/
def ctrlOfWord (old : Ctrl) (w : Word) : Ctrl :=
  { rxEn := w.getLsbD 0, autoFeat := w.getLsbD 1, autoAux := w.getLsbD 2, rxSrc := w.getLsbD 3,
    txSink := w.getLsbD 4, nbands := legalNbands old.nbands (w.extractLsb' 8 4) }

/-- The decoder reset of a CTRL write that takes RX_EN from 1 to 0 (R103, R721). -/
def State.disableRx (s : State) (new : Ctrl) : State :=
  if s.ctrl.rxEn && !new.rxEn then s.resetDecoder else s

/-- The re-grouping of a CTRL write that changes NBANDS (R104). -/
def State.regroupBands (s : State) (new : Ctrl) : State :=
  if s.ctrl.nbands ≠ new.nbands then s.clearDsp else s

/-- A write to CTRL, accepted (R103, R104, R721). -/
def State.writeCtrl (s : State) (w : Word) : State :=
  let new := ctrlOfWord s.ctrl w
  { (s.disableRx new).regroupBands new with ctrl := new }

/-- A write to BAND_RANGE[i]: a change of the stored value is a re-grouping (R124). -/
def State.writeBandRange (s : State) (i : Fin 12) (r : BinRange) : State :=
  let t := if s.cfg.bandRange[i] ≠ r then s.clearDsp else s
  { t with cfg := { t.cfg with bandRange := t.cfg.bandRange.set i.val r } }

/-- Replace the DSP configuration. -/
def State.setCfg (s : State) (c : DspConfig) : State := { s with cfg := c }

/-- SUS_N is WARL 1 to 255: a write of 0 stores 1 (R121). -/
def legalSusN (b : Byte) : Byte := if b = 0#8 then 1#8 else b

/-- A write to a word of the BIN RAM: entries at `N_BINS` or above ignore it (R133). -/
def State.writeBin (s : State) (b : Fin 1024) (w : Word) : State :=
  if b.val < s.param.nBins then s.writeMem (binBase + 4 * b.val) (bytesOfWord w) else s

/-- What an accepted write does to each register (R202): read-only and reserved registers ignore it. -/
def State.storeReg (s : State) (w : Word) : Reg → Host.Outcome State Fault Refusal
  | .ctrl => .next (s.writeCtrl w)
  | .cmd => .next (s.issueCommand w)
  | .irqStatus => .next (s.clearIrq (w.extractLsb' 0 7))
  | .irqEnable => .next { s with irqEnable := w.extractLsb' 0 7 }
  | .staleTimeout => .next { s with staleTimeout := w.extractLsb' 0 16 }
  | .rxPush => rxPushStep (wordByte w 0) s
  | .txCmd => .next { s with txCmd := txCmdOfWord w }
  | .tunable t => .next (s.setCfg { s.cfg with tun := tunableSet s.cfg.tun w t })
  | .chFloor => .next (s.setCfg { s.cfg with chFloor := wordByte w 0 })
  | .chRange => .next (s.setCfg { s.cfg with chRange := rangeOfWord w })
  | .vocRange => .next (s.setCfg { s.cfg with vocRange := rangeOfWord w })
  | .pkRange => .next (s.setCfg { s.cfg with pkRange := rangeOfWord w })
  | .refract => .next (s.setCfg { s.cfg with refract := w.extractLsb' 0 16 })
  | .noteMinStr => .next (s.setCfg { s.cfg with noteMinStr := wordByte w 0 })
  | .postWin => .next (s.setCfg { s.cfg with postWin := wordByte w 0 })
  | .susN => .next (s.setCfg { s.cfg with susN := legalSusN (wordByte w 0) })
  | .bassMask => .next (s.setCfg { s.cfg with bassMask := w.extractLsb' 0 12 })
  | .midMask => .next (s.setCfg { s.cfg with midMask := w.extractLsb' 0 12 })
  | .trebMask => .next (s.setCfg { s.cfg with trebMask := w.extractLsb' 0 12 })
  | .bandRange i => .next (s.writeBandRange i (rangeOfWord w))
  | .tilt i => .next (s.setCfg { s.cfg with tilt := s.cfg.tilt.set i.val w })
  | .pclassLut k => .next (s.writeMem (lutBase + 4 * k.val) (bytesOfWord w))
  | .txRaw k => .next (s.writeMem (txRawBase + 4 * k.val) (bytesOfWord w))
  | .bin b => .next (s.writeBin b w)
  | .id | .param | .status | .cmdErr | .decErr | .txLevel | .txData | .seqTx | .seqRx | .tickCnt | .cntRxOk
  | .cntLenErr | .cntFrameErr | .cntCrcErr | .cntStale | .cntTxDrop | .featImg _ | .auxImg _ | .rxFeat _
  | .rxCmd _ | .rxAux _ | .dbgChromaSm _ | .dbgVisLevel _ | .dbgGlobalAvg | .dbgNoiseFloor | .dbgEnv | .dbgOnset
  | .dbgNote | .dbgSustain | .dbgDec | .dbgDecBuf _ | .reserved => .next s

/-- A write to a register (R140, R202): an engine-owned register is not written while a command is pending; the write
is dropped with WRITE_BUSY. -/
def State.writeReg (s : State) (r : Reg) (w : Word) : Host.Outcome State Fault Refusal :=
  if r.engineOwned && s.busy then .next (s.raiseCmdError .writeBusy 0#8 0#8) else s.storeReg w r

/-- The side effect of a read (R113, R206): TX_DATA with TX_SINK = 1 takes one byte from the FIFO; every other read has
none. -/
def State.afterRead (s : State) (r : Reg) : State :=
  match r with
  | .txData => if s.ctrl.txSink then s.popTx else s
  | _ => s

/-- An access the block performs: one aligned 32-bit word (R205). -/
def goodAccess (a : BitVec 13) (width : AccessWidth) : Bool := width == .word && a.toNat % 4 == 0

/-- Give the bus response of this cycle. -/
def State.respond (s : State) (data : Word) (err : Bool) : State :=
  { s with port := { s.port with bus := some { data := data, err := err } } }

/-- The host bus access of a cycle (R201, R202, R205). A narrow or misaligned access changes nothing, reads 0 and gets the
error response. -/
def hostAccess (a : HostAccess) (s : State) : Host.Outcome State Fault Refusal :=
  match a with
  | .read addr width =>
    if goodAccess addr width then
      .next ((s.afterRead (regAt addr.toNat)).respond (s.readReg (regAt addr.toNat)) false)
    else .next (s.respond 0#32 true)
  | .write addr width data =>
    if goodAccess addr width then (s.respond 0#32 false).writeReg (regAt addr.toNat) data
    else .next (s.respond 0#32 true)

end Sys2Proof.Machine
end

