-- ==== Sys2Proof/Machine/Clock.lean ====
section
/-! DEFINITION. One clock cycle: the steps of the block's agents in the order of 20_memory.md R220, and the reset of
70_reset_and_hazards.md R900. -/

namespace Sys2Proof.Machine

/-- The inputs of the cycle about to be taken: the next of the script, or, past its end, a cycle without inputs in which
the free value of `T_CMD`, which is weakly fair (R401), decides whether the pending command completes (R12). DESIGN CHOICE, safe:
notes/assumptions/3.md. -/
def State.cycleNow (s : State) : Cycle :=
  match s.script with
  | c :: _ => c
  | [] => { Cycle.quiet with complete := Config.completesIn s.clk }

/-- The cycle begins: its inputs leave the script, and the notes and port outputs of the last cycle are gone. -/
def State.startCycle (s : State) : State :=
  { s with script := s.script.tail, clk := s.clk + 1, now := CycleNotes.none, port := PortOut.none }

/-- The command engine's completion step (R401): the pending command is decoded and run; an illegal word completes with
BAD_OPCODE (R302). -/
def engineStep (complete : Bool) (s : State) : Host.Outcome State Fault Refusal :=
  match complete, s.pending with
  | true, some p =>
    match decodeCommand p.op p.typ with
    | .ok i => exec i s
    | .error _ => .next (s.badOpcode p.op)
  | _, _ => .next s

/-- The host bus step of a cycle (R220). -/
def hostStep (a : Option HostAccess) (s : State) : Host.Outcome State Fault Refusal :=
  match a with
  | some acc => hostAccess acc s
  | none => .next s

/-- The `rx` port step of a cycle (R220). -/
def rxStep (x : Option Byte) (s : State) : Host.Outcome State Fault Refusal :=
  match x with
  | some b => rxPortStep b s
  | none => .next s

/-- The `tx` port step of a cycle (R221, R656): with `tx_valid = tx_ready = 1` the oldest byte leaves. -/
def txStep (ready : Bool) (s : State) : State :=
  if ready && s.txValid then { s.popTx with port := { s.port with tx := s.txFifo.head? } } else s

/-- The timebase step of a cycle (R220, R720). -/
def tickStep (tick : Bool) (s : State) : State := if tick then timebaseStep s else s

/-- The steps after the command engine's, in the order of R220: host access, `rx` byte, `tx` pop, `tb_tick`. Each sees
what the earlier ones left (DEDUCED: notes/assumptions/6.md). -/
def restOfCycle (c : Cycle) (s : State) : Host.Outcome State Fault Refusal :=
  andThen (hostStep c.host s) (fun s₁ =>
    andThen (rxStep c.rx s₁) (fun s₂ => .next (tickStep c.tbTick (txStep c.txReady s₂))))

/-- The bus response of a cycle in reset: the access is not performed, a read returns 0, and there is no error (R900). -/
def resetResponse (a : Option HostAccess) : Option BusResponse :=
  match a with
  | some _ => some { data := 0#32, err := false }
  | none => none

/-- A cycle with `rst = 1` (R900): every piece of state to its reset value, and no other step. The parameters of the
instance and the model's own clock stay (DESIGN CHOICE: notes/assumptions/4.md, 13.md). -/
def State.resetCycle (s : State) (c : Cycle) : State :=
  { State.resetWith s.param with
    script := s.script, clk := s.clk, port := { PortOut.none with bus := resetResponse c.host } }

/-- A cycle with the given inputs (R220, R900). -/
def runCycle (c : Cycle) (s : State) : Host.Outcome State Fault Refusal :=
  if c.rst then .next (s.resetCycle c) else andThen (engineStep c.complete s) (restOfCycle c)

/-- The next cycle. -/
def clockStep (s : State) : Host.Outcome State Fault Refusal := runCycle s.cycleNow s.startCycle

/-! ## Placing an instruction where the next step runs it -/

/-- The frame type whose header the bytes begin with, if any (R310, R313). -/
def headerType : List Byte → Option FrameType
  | b :: t :: _ :: l :: _ => if b = sofByte then knownHeader t l else none
  | _ => none

/-- A frame placed so that its last byte arrives on `rx` in the next cycle: the decoder holds all the others. -/
def State.placeFrame (s : State) (bytes : List Byte) (t : FrameType) : State :=
  { s with
    ctrl := { s.ctrl with rxEn := true, rxSrc := false }
    dec := s.dec.withBytes (bytes.take (t.len + 6))
    script := { Cycle.quiet with rx := some (bytes.getD (t.len + 6) 0#8) } :: s.script }

/-- A command word placed as the pending command, to be completed in the next cycle. -/
def State.placeCommand (s : State) (w : Word) : State :=
  { s with
    pending := some { op := opField w, typ := typeField w }
    script := { Cycle.quiet with complete := true } :: s.script }

/-- The instruction of an opcode-table word, placed for the next cycle (DESIGN CHOICE, safe: notes/assumptions/1.md). -/
def State.placeTableWord (s : State) (nbits w : Nat) : State :=
  match headerType (tableBytes nbits w) with
  | some t => s.placeFrame (tableBytes nbits w) t
  | none => s.placeCommand (BitVec.ofNat 32 (w % 2 ^ nbits))

end Sys2Proof.Machine
end

