-- ==== Sys2Proof/Machine/Step.lean ====
section
/-! DEFINITION. The step of the machine is one clock cycle (20_memory.md R220). -/

namespace Sys2Proof.Machine

/-- One clock cycle. -/
def step (s : State) : Host.Outcome State Fault Refusal := clockStep s

/-- `s` with the instruction of an opcode-table word placed where the next step runs it: a command word is pending and
completes in that cycle; a frame lies in the decoder buffer but for its last byte, which arrives in that cycle. -/
def State.withFetchWord (s : State) (nbits w : Nat) : State := s.placeTableWord nbits w

end Sys2Proof.Machine
end

