-- ==== Sys2Proof/Safety.lean ====
section
/-! DEFINITION. What counts as a safe state and a safe run, and the terms claims are stated in. A safe state is one the
rules keep (10_state.md R155, 46_frame_decoder.md R709, and the legal values of R9, R10, R104, R121, R152); a safe run never stops. -/

namespace Sys2Proof.Machine

/-- The parameters of an instance are legal: R9, R10, and TXQ_DEPTH fits PARAM's 16-bit field (R102). -/
abbrev Param.Legal (p : Param) : Prop := 1 ≤ p.nBins ∧ p.nBins ≤ 1024 ∧ 118 ≤ p.txqDepth ∧ p.txqDepth ≤ 65535

/-- The fields with legal values hold one: NBANDS 1 to 12 (R104), SUS_N not 0 (R121). -/
abbrev State.FieldsLegal (s : State) : Prop := 1#4 ≤ s.ctrl.nbands ∧ s.ctrl.nbands ≤ 12#4 ∧ s.cfg.susN ≠ 0#8

/-- The TX FIFO holds at most TXQ_DEPTH bytes (R152). -/
abbrev State.FifoBounded (s : State) : Prop := s.txFifo.length ≤ s.param.txqDepth

/-- With four bytes or more, the buffer holds a known header and less than its whole frame (R155 (3), R709). -/
def Decoder.headerFits (d : Decoder) : Bool :=
  match knownHeader d.dbuf[1] d.dbuf[3] with
  | some t => decide (d.blen < t.len + 7)
  | none => false

/-- The decoder invariants (R155 (1) to (4), R709, and that bytes at `blen` and above are 0, R701, R703, R708). -/
abbrev Decoder.Inv (d : Decoder) : Prop :=
  (d.dstate = .seekingSof ↔ d.blen = 0)
  ∧ (d.dstate = .accumulating → d.dbuf[0] = sofByte)
  ∧ (4 ≤ d.blen → d.headerFits = true)
  ∧ (∀ k : Fin 75, d.blen ≤ k.val → d.dbuf[k] = 0#8)
  ∧ (d.dstate = .seekingSof → d.staleCnt = 0#16)

/-- While RX_EN = 0 the decoder is in SEEKING_SOF (R721). -/
abbrev State.RxIdle (s : State) : Prop := s.ctrl.rxEn = false → s.dec.dstate = .seekingSof

/-- The decoder part of a safe state. -/
abbrev State.DecoderInv (s : State) : Prop := s.dec.Inv ∧ s.RxIdle

/-- An address of a data window that holds bytes; the BIN RAM up to `N_BINS` (R100, R126 to R130, R133). -/
def inWindow (nBins a : Nat) : Bool :=
  (decide (0x400 ≤ a) && decide (a < 0x600)) || (decide (0x600 ≤ a) && decide (a < 0x644))
    || (decide (0x680 ≤ a) && decide (a < 0x6A4)) || (decide (0x700 ≤ a) && decide (a < 0x744))
    || (decide (0x780 ≤ a) && decide (a < 0x7C4)) || (decide (0x800 ≤ a) && decide (a < 0x824))
    || (decide (0x880 ≤ a) && decide (a < 0x8C4)) || (decide (0x1000 ≤ a) && decide (a < 0x1000 + 4 * nBins))

/-- Memory is in canonical form and lists nothing outside the data windows. -/
abbrev State.MemoryInv (s : State) : Prop :=
  Memory.wf s.mem = true ∧ s.mem.all (fun c => inWindow s.param.nBins c.1) = true

/-- Inactive bands are `+0.0`, and FEAT_IMG's band words hold `band_sm` (R155 (5)). -/
abbrev State.ImagesInv (s : State) : Prop :=
  (∀ i : Fin 12, s.ctrl.nbands.toNat ≤ i.val → s.dsp.bandSm[i] = 0#32 ∧ s.dsp.vis[i] = 0#32)
  ∧ (∀ i : Fin 12, memReadWord s.mem (featImgBase + 4 * i.val) = s.dsp.bandSm[i])

/-- A safe state. -/
abbrev State.Inv (s : State) : Prop :=
  s.param.Legal ∧ s.FieldsLegal ∧ s.FifoBounded ∧ s.DecoderInv ∧ s.MemoryInv ∧ s.ImagesInv

/-- The block goes on: the step answers a next state. -/
def StepsOn (s : State) : Prop := ∃ t, step s = .next t

/-- `k` cycles from `s` take the block to `t`. -/
def Reaches : Nat → State → State → Prop
  | 0, s, t => s = t
  | k + 1, s, t => ∃ u, step s = .next u ∧ Reaches k u t

/-! ## The terms of claims about registers, memory and frames -/

/-- The word a host read of an aligned offset returns (R201). -/
def State.readAt (s : State) (a : Nat) : Word := s.readReg (regAt a)

/-- The bytes at `a`, `a + 1`, …, `n` of them. -/
def State.bytesAt (s : State) (a n : Nat) : List Byte := (List.range n).map (fun k => memRead s.mem (a + k))

/-- The value of a binary32 pattern that is no NaN, in units of 2^-149 (R17). An infinity stands at 2^277 units, beyond
every finite value. -/
def unitsOf (x : F32) : Int := if fsign x then -(fmant x : Int) else (fmant x : Int)

/-- `y` has the given sign, and its magnitude is the exact magnitude `r` (in units of 2^-149) rounded once to nearest, ties
to even (R18): no finite value is nearer, an even significand is taken of two equally near ones, and from half an ulp above
the largest finite value on it is infinite. -/
def RoundsTo (neg : Bool) (r : ℝ) (y : F32) : Prop :=
  fsign y = neg
  ∧ ((2 ^ 25 - 1) * 2 ^ 252 ≤ r → fIsInf y = true)
  ∧ (r < (2 ^ 25 - 1) * 2 ^ 252 →
      fIsFinite y = true
      ∧ ∀ z : F32, fIsFinite z = true →
        |(fmant y : ℝ) - r| ≤ |(fmant z : ℝ) - r|
        ∧ (|(fmant y : ℝ) - r| = |(fmant z : ℝ) - r| → fmant z ≠ fmant y → y.toNat % 2 = 0))

/-- A frame as the wire carries it (R310, R312): SOF, type, seq, len, payload, CRC low, CRC high, EOF. -/
def wireFrame (code seq len : Byte) (payload : List Byte) : List Byte :=
  [0xAA#8, code, seq, len] ++ payload
    ++ [(crc16 (code :: seq :: len :: payload)).extractLsb' 0 8, (crc16 (code :: seq :: len :: payload)).extractLsb' 8 8,
        0xBB#8]

/-- `t` is `s` after a completed command that set the given event bits, but for the fields a claim goes on to name: the
engine is empty and `now` holds the model's own notes. -/
def State.doneWith (s : State) (bits : BitVec 7) (notes : CycleNotes) : State :=
  { s with pending := none, irqStatus := s.irqStatus ||| bits, now := notes }

/-- An instruction that sends one frame: the whole frame enters a FIFO with room and the type's sequence counter moves
on; without room nothing enters it, CNT_TX_DROP counts and TX_OVERFLOW is recorded (R652, R653, R655). -/
def SendsFrame (i : Instr) (opcode : Byte) (ft : FrameType) (code len : Byte) (payload : State → List Byte) : Prop :=
  ∀ s : State,
    (len.toNat + 7 ≤ s.param.txqDepth - s.txFifo.length →
      ∃ t, exec i s = .next t
        ∧ t = { s.doneWith 0x01#7 t.now with
                  txFifo := s.txFifo ++ wireFrame code (s.seqTx.get ft) len (payload s)
                  seqTx := s.seqTx.set ft (s.seqTx.get ft + 1#8) })
    ∧ (s.param.txqDepth - s.txFifo.length < len.toNat + 7 →
      ∃ t, exec i s = .next t
        ∧ t = { s.doneWith 0x41#7 t.now with
                  cnt := { s.cnt with txDrop := s.cnt.txDrop + 1#32 }
                  cmdErr := 0x00#8 ++ code ++ opcode ++ 0x05#8 })

/-- A cycle whose only input is a byte on `rx`. -/
def rxCycle (b : Byte) : Cycle := { Cycle.quiet with rx := some b }

/-! ## The terms of claims about ANALYZE -/

/-- A bin range ANALYZE accepts (R402). -/
abbrev RangeLegal (nBins : Nat) (r : BinRange) : Prop := r.lo ≤ r.hi ∧ r.hi.toNat < nBins

/-- Every active band has a legal range. -/
abbrev State.BandsLegal (s : State) : Prop :=
  ∀ i : Fin 12, i.val < s.ctrl.nbands.toNat → RangeLegal s.param.nBins s.cfg.bandRange[i]

/-- No active band is in two of the three masks (R123, R402). -/
abbrev State.MasksDisjoint (s : State) : Prop :=
  ∀ i : Fin 12, i.val < s.ctrl.nbands.toNat →
    (s.cfg.bassMask.getLsbD i.val && s.cfg.midMask.getLsbD i.val) = false
    ∧ (s.cfg.bassMask.getLsbD i.val && s.cfg.trebMask.getLsbD i.val) = false
    ∧ (s.cfg.midMask.getLsbD i.val && s.cfg.trebMask.getLsbD i.val) = false

/-- A configuration ANALYZE does not refuse (R402), with NBANDS at a legal value (R104). -/
abbrev State.AnalyzeLegal (s : State) : Prop :=
  s.ctrl.nbands ≤ 12#4 ∧ s.BandsLegal ∧ RangeLegal s.param.nBins s.cfg.chRange
    ∧ RangeLegal s.param.nBins s.cfg.vocRange ∧ RangeLegal s.param.nBins s.cfg.pkRange ∧ s.MasksDisjoint

/-- `m(b)` of R450: the sanitised word of BIN RAM. -/
def State.magnitude (s : State) (b : Nat) : F32 := sanitize (memReadWord s.mem (0x1000 + 4 * b))

/-- `Σ` from `+0.0`, in list order (R18). -/
def sumOf (xs : List F32) : F32 := xs.foldl fadd 0x00000000#32

/-- The bins of a range, ascending. -/
def binsOf (r : BinRange) : List Nat := List.range' r.lo.toNat (r.hi.toNat + 1 - r.lo.toNat)

/-- The RMS of R451 and R551. -/
def State.rmsOf (s : State) (r : BinRange) : F32 :=
  fsqrt (fdiv (sumOf ((binsOf r).map (fun b => fmul (s.magnitude b) (s.magnitude b))))
    (f32OfNat (r.hi.toNat + 1 - r.lo.toNat)))

/-- `raw[i]` of an active band (R452). -/
def State.rawEnergy (s : State) (i : Fin 12) : F32 :=
  fmul (fmul (s.rmsOf s.cfg.bandRange[i]) s.cfg.tun.calGain) s.cfg.tilt[i]

/-- `LUT[b]` (R126): two entries a byte, the even bin in the low half. -/
def State.lutEntry (s : State) (b : Nat) : Nat :=
  if b % 2 = 0 then (memRead s.mem (0x400 + b / 2)).toNat % 16 else (memRead s.mem (0x400 + b / 2)).toNat / 16

/-- `amp[p]` of R501. -/
def State.chromaAmp (s : State) (p : Fin 12) : F32 :=
  fsqrt (sumOf (((binsOf s.cfg.chRange).filter (fun b => s.lutEntry b == p.val)).map
    (fun b => fmul (s.magnitude b) (s.magnitude b))))

/-- `log1p(k ⊗ x) ⊘ log1p(k)`, clamped to `[0, 1]` (R26). -/
def compressed (k x : F32) : F32 := fclamp01 (fdiv (Config.num.fn (fmul k x)) (Config.num.fn k))

/-- The active bands, ascending. -/
def State.activeList (s : State) : List (Fin 12) :=
  (List.finRange 12).filter (fun i => decide (i.val < s.ctrl.nbands.toNat))

/-- An unweighted mean, `+0.0` of nothing (R606). -/
def meanOf (xs : List F32) : F32 := if xs.isEmpty then 0x00000000#32 else fdiv (sumOf xs) (f32OfNat xs.length)

/-- The levels of the active bands of a mask (R606). -/
def State.levelsIn (s t : State) (mask : BitVec 12) : List F32 :=
  (s.activeList.filter (fun i => mask.getLsbD i.val)).map (fun i => t.dsp.vis[i])

/-- The positive part of the change of a band's level, `d[i]` (R604). -/
def riseOf (s t : State) (i : Fin 12) : F32 := fpos (fsub t.dsp.vis[i] s.dsp.vis[i])

/-- Memory in which both payload images hold their reset bytes and every other byte is as before (R127, R128, R407). -/
def ImagesCleared (m m' : Memory) : Prop :=
  ∀ a, memRead m' a =
    if a = 0x632 ∨ a = 0x641 then 0xFF#8
    else if (0x600 ≤ a ∧ a < 0x644) ∨ (0x680 ≤ a ∧ a < 0x6A4) then 0x00#8
    else memRead m a

/-- A value in `[0, 1]`. -/
def inUnit (x : F32) : Bool := fge x 0x00000000#32 && fge 0x3F800000#32 x

/-! ## The terms of claims about the decoder and the host bus -/

/-- The decoder's initial state but for the stale count (R702, R703). -/
def emptyDecoder (stale : BitVec 16) : Decoder :=
  { dstate := .seekingSof, dbuf := Vector.replicate 75 0x00#8, blen := 0, staleCnt := stale }

/-- `t` is `s` after the delivery of a frame: the snapshot of its type at `base`, its SEQ_RX byte, its event bit, one
more valid frame, an empty buffer, and nothing else (R703, R712). -/
def Delivered (s t : State) (ft : FrameType) (bit : BitVec 7) (base : Nat) (seq : Byte) (payload : List Byte) : Prop :=
  t = { s with
          dec := emptyDecoder s.dec.staleCnt
          mem := t.mem
          seqRx := s.seqRx.set ft seq
          cnt := { s.cnt with rxOk := s.cnt.rxOk + 1#32 }
          irqStatus := s.irqStatus ||| bit
          now := t.now }
  ∧ ∀ a, memRead t.mem a =
      if base ≤ a ∧ a < base + payload.length then payload.getD (a - base) 0x00#8 else memRead s.mem a

/-- The record of a decoder error found with the given buffer (R806). -/
def recordOf (d : Decoder) (code : BitVec 4) : Word :=
  0x00#8 ++ (if 2 ≤ d.blen then d.dbuf[1] else 0x00#8) ++ 0#1 ++ BitVec.ofNat 7 d.blen ++ 0x0#4 ++ code

/-- The decoder with one more byte (R701). -/
def Decoder.withNext (d : Decoder) (x : Byte) : Decoder :=
  { dstate := .accumulating, dbuf := d.dbuf.setIfInBounds d.blen x, blen := d.blen + 1, staleCnt := 0#16 }

/-- An address lies in one of the ranges (both ends included). -/
def inRanges (rs : List (Nat × Nat)) (a : Nat) : Bool := rs.any (fun r => decide (r.1 ≤ a) && decide (a ≤ r.2))

/-- The reserved offsets of the register map (R100, R134). -/
def reservedSpace (a : Nat) : Bool :=
  inRanges [(0x05C, 0x0FC), (0x190, 0x1BC), (0x1F0, 0x1FC), (0x230, 0x3FC), (0x644, 0x67F), (0x6A4, 0x6FF),
    (0x744, 0x77F), (0x7C4, 0x7FF), (0x824, 0x87F), (0x8C4, 0x8FF), (0x97C, 0x9FF), (0xA4C, 0xFFF)] a

/-- The read-only registers of the map (R100): ID, PARAM, STATUS, the error records, TX_LEVEL, TX_DATA, SEQ_TX to
CNT_TX_DROP, FEAT_IMG, AUX_IMG, the RX snapshots and the debug window. -/
def readOnlySpace (a : Nat) : Bool :=
  inRanges [(0x000, 0x004), (0x00C, 0x00C), (0x01C, 0x020), (0x028, 0x02C), (0x038, 0x058), (0x600, 0x643),
    (0x680, 0x6A3), (0x700, 0x743), (0x780, 0x7C3), (0x800, 0x823), (0x900, 0x978), (0xA00, 0xA4B)] a

/-- The engine-owned registers (R140). -/
def ownedSpace (a : Nat) : Bool :=
  inRanges [(0x008, 0x008), (0x034, 0x034), (0x100, 0x18C), (0x1C0, 0x1EC), (0x200, 0x22C), (0x400, 0x5FC),
    (0x880, 0x8C3), (0x1000, 0x1FFC)] a

/-- The offsets of the registers that store what is written to them, each with the mask of its defined bits (R108, R111,
R115, R120 to R123, R125). -/
def plainRegisters : List (Nat × Word) :=
  [0x100, 0x104, 0x108, 0x10C, 0x110, 0x114, 0x128, 0x12C, 0x130, 0x134, 0x138, 0x13C, 0x140, 0x154, 0x158, 0x15C,
    0x160, 0x164, 0x168, 0x16C, 0x170, 0x174, 0x178, 0x17C, 0x180, 0x200, 0x204, 0x208, 0x20C, 0x210, 0x214, 0x218,
    0x21C, 0x220, 0x224, 0x228, 0x22C].map (fun a => (a, 0xFFFFFFFF#32))
  ++ [(0x018, 0x0000007F#32), (0x024, 0x0000FFFF#32), (0x034, 0x00FFFFFF#32), (0x118, 0x000000FF#32),
    (0x11C, 0x03FF03FF#32), (0x120, 0x03FF03FF#32), (0x124, 0x03FF03FF#32), (0x144, 0x0000FFFF#32),
    (0x148, 0x000000FF#32), (0x14C, 0x000000FF#32), (0x184, 0x00000FFF#32), (0x188, 0x00000FFF#32),
    (0x18C, 0x00000FFF#32)]

/-- `s` with the bus response of this cycle. -/
def State.answered (s : State) (data : Word) (err : Bool) : State :=
  { s with port := { s.port with bus := some { data := data, err := err } } }

end Sys2Proof.Machine
end

