-- ==== Sys2Proof/Certificates/Slice0/Obligations.lean ====
section
/-! DEFINITION. The statements for the provers, each about a numbered rule of spec/. -/

open Sys2Proof Sys2Proof.Machine

/-! ## Encodings (30_encoding.md) -/

/-- Words written out from R300, R301 and R310 decode to the instructions they spell. The CRC bytes of the two frames are
the ones the spec derives (R659 2: `F3 4F BB`, R660 1: `24 06 BB`); decoding reads them as they stand. -/
def Obligations.SpecWordsDecode : Prop :=
  decode [0x00#8, 0x00#8, 0x00#8, 0x00#8] = .ok (.nop, [])
  ∧ decode [0x01#8, 0x00#8, 0x00#8, 0x00#8] = .ok (.analyze, [])
  ∧ decode [0x04#8, 0x00#8, 0x00#8, 0x00#8] = .ok (.sendCommand, [])
  ∧ decode [0x05#8, 0x03#8, 0x00#8, 0x00#8] = .ok (.sendRawAux, [])
  ∧ decode [0x0A#8, 0x00#8, 0x00#8, 0x00#8] = .ok (.flushTx, [])
  ∧ decode ([0xAA#8, 0x03#8, 0x00#8, 0x24#8] ++ List.replicate 36 0x00#8 ++ [0x24#8, 0x06#8, 0xBB#8])
      = .ok (.frameAux 0x00#8 (List.replicate 36 0x00#8) 0x0624#16 0xBB#8, [])
  ∧ decode ([0xAA#8, 0x01#8, 0x00#8, 0x44#8] ++ List.replicate 68 0x00#8 ++ [0xF3#8, 0x4F#8, 0xBB#8])
      = .ok (.frameFeature 0x00#8 (List.replicate 68 0x00#8) 0x4FF3#16 0xBB#8, [])

/-- Decoding an encoded well-formed instruction gives it back, with whatever bytes stand behind it. -/
def Obligations.DecodeEncodeRoundTrip : Prop :=
  ∀ (i : Instr) (rest : List Byte), i.wf = true → decode (encode i ++ rest) = .ok (i, rest)

/-- A frame the decoder reads is well-formed, and its encoding is exactly the bytes read. -/
def Obligations.EncodeDecodedFrame : Prop :=
  ∀ (bs rest : List Byte) (i : Instr), decodeFrame bs = .ok (i, rest) → i.wf = true ∧ encode i ++ rest = bs

/-- R300, R302: OP decides, TYPE only for SEND_RAW, and no other bit of a command word is looked at. Exactly the reserved
OPs and SEND_RAW with TYPE = 0 are illegal; such a word is accepted like any other, and its completion records BAD_OPCODE
and does nothing else. -/
def Obligations.CommandWords : Prop :=
  ∀ w : Word,
    (∀ w' : Word, w.extractLsb' 0 8 = w'.extractLsb' 0 8 →
      (w.extractLsb' 0 8 = 0x05#8 → w.extractLsb' 8 2 = w'.extractLsb' 8 2) →
      decodeCommandWord w = decodeCommandWord w')
    ∧ ((∃ i, decodeCommandWord w = .ok i)
      ↔ ¬ (0x0B#8 ≤ w.extractLsb' 0 8 ∨ (w.extractLsb' 0 8 = 0x05#8 ∧ w.extractLsb' 8 2 = 0#2)))
    ∧ (0x0B#8 ≤ w.extractLsb' 0 8 ∨ (w.extractLsb' 0 8 = 0x05#8 ∧ w.extractLsb' 8 2 = 0#2) →
        ∀ s : State, s.pending = none →
          ∃ u t, hostAccess (.write 0x010#13 .word w) s = .next u ∧ u.busy = true
            ∧ engineStep true u = .next t
            ∧ t = { u.doneWith 0x41#7 t.now with cmdErr := 0x0000#16 ++ w.extractLsb' 0 8 ++ 0x01#8 })

/-- R313: a header that is none of (0x01, 68), (0x02, 68), (0x03, 36) spells no frame, whatever follows it. -/
def Obligations.UnknownHeadersSpellNoFrame : Prop :=
  ∀ (t q l : Byte) (body : List Byte),
    ¬ ((t = 0x01#8 ∧ l = 68#8) ∨ (t = 0x02#8 ∧ l = 68#8) ∨ (t = 0x03#8 ∧ l = 36#8)) →
    decodeFrame (0xAA#8 :: t :: q :: l :: body) = .error (.lengthMismatch t l)

/-! ## The step (20_memory.md R220, 40_command_engine.md R401) -/

/-- When the pending command word decodes to `i` and completes in this cycle, the step is `exec i` on the state at the
start of the cycle, then the other steps in the order of R220: the host access, the `rx` byte, the `tx` pop, the `tb_tick`
strobe, each on the state the one before it left (notes/assumptions/6.md). -/
def Obligations.StepRunsPendingCommand : Prop :=
  ∀ (s : State) (w : Word) (i : Instr), s.cycleNow.rst = false → s.cycleNow.complete = true →
    s.pending = some { op := opField w, typ := typeField w } → decode (bytesOfWord w) = .ok (i, []) →
    step s = andThen (exec i s.startCycle) (fun s₁ =>
      andThen (hostStep s.cycleNow.host s₁) (fun s₂ =>
        andThen (rxStep s.cycleNow.rx s₂) (fun s₃ =>
          .next (tickStep s.cycleNow.tbTick (txStep s.cycleNow.txReady s₃)))))

/-- When the byte that arrives on `rx` completes a candidate frame that decodes to `i`, the step is `exec i` on the state
with that byte appended, then the passes of Evaluate on what is left in the buffer, then the rest of the cycle. -/
def Obligations.StepRunsReceivedFrame : Prop :=
  ∀ (s : State) (x : Byte) (i : Instr) (tail : List Byte), s.DecoderInv → s.cycleNow.rst = false →
    (s.cycleNow.complete = false ∨ s.pending = none) → s.cycleNow.host = none → s.cycleNow.rx = some x →
    s.ctrl.rxEn = true → s.ctrl.rxSrc = false → s.dec.dstate = .accumulating →
    decode (s.dec.bytes ++ [x]) = .ok (i, tail) →
    step s = andThen
      (exec i { s.startCycle.noteByte with dec := s.startCycle.noteByte.dec.withBytes (s.dec.bytes ++ [x]) })
      (fun v => andThen (evaluate s.dec.blen v)
        (fun u => .next (tickStep s.cycleNow.tbTick (txStep s.cycleNow.txReady u))))

/-- A cycle without input, in which no command completes, changes no register: a pending command waits (R12, R211). The
model's own clock, script, notes and port outputs move on. -/
def Obligations.QuietCycleChangesNothing : Prop :=
  ∀ s : State, s.cycleNow = Cycle.quiet →
    step s = .next { s with script := s.script.tail, clk := s.clk + 1, now := CycleNotes.none, port := PortOut.none }

/-- R107, R220, R809: a command that completes in the cycle of a host access completes first. So a CMD write of that
cycle is accepted, and the CMD_DONE it sets stays set through a clear of that cycle. The completion also comes before the
`rx` byte (a byte of the cycle in which RESET_DECODER completes survives it) and before the `tx` pop (a frame enqueued in a
cycle may give up its first byte in it). The host access comes before the `rx` byte, the `tx` pop and the strobe: a write to
CTRL or STALE_TIMEOUT counts for them in its own cycle. That each step sees what the earlier ones of its cycle left is
deduced from R220 (notes/assumptions/6.md); that the byte comes before the strobe is said by StaleTimeout. -/
def Obligations.CompletionComesFirst : Prop :=
  (∀ (s : State) (p : CmdWord) (w : Word), s.DecoderInv → s.cycleNow.rst = false → s.cycleNow.complete = true →
    s.pending = some p →
    (s.cycleNow.host = some (.write 0x010#13 .word w) →
      ∃ t, step s = .next t ∧ t.pending = some { op := w.extractLsb' 0 8, typ := w.extractLsb' 8 2 })
    ∧ (s.cycleNow.host = some (.write 0x014#13 .word w) →
      ∃ t, step s = .next t ∧ t.pending = none ∧ t.irqStatus.getLsbD 0 = true))
  ∧ (∀ (s : State) (typ : BitVec 2), s.cycleNow = { Cycle.quiet with complete := true, rx := some 0xAA#8 } →
      s.pending = some { op := 0x07#8, typ := typ } → s.ctrl.rxEn = true → s.ctrl.rxSrc = false →
      ∃ t, step s = .next t ∧ t.dec.dstate = .accumulating ∧ t.dec.blen = 1)
  ∧ (∀ (s : State) (typ : BitVec 2), s.cycleNow = { Cycle.quiet with complete := true, txReady := true } →
      s.pending = some { op := 0x03#8, typ := typ } → s.ctrl.txSink = false → s.txFifo = [] → 43 ≤ s.param.txqDepth →
      ∃ t, step s = .next t ∧ t.port.tx = some 0xAA#8 ∧ t.txFifo.length = 42)
  ∧ (∀ (s : State) (w : Word) (x : Byte), s.pending = none →
      s.cycleNow = { Cycle.quiet with host := some (.write 0x008#13 .word w), rx := some x } →
      ∃ u, hostAccess (.write 0x008#13 .word w) s.startCycle = .next u
        ∧ (w.getLsbD 0 = true ∧ w.getLsbD 3 = false → step s = byteStep x u)
        ∧ (¬ (w.getLsbD 0 = true ∧ w.getLsbD 3 = false) → step s = .next u))
  ∧ (∀ (s : State) (w : Word) (b : Byte) (rest : List Byte), s.pending = none → s.txFifo = b :: rest →
      s.cycleNow = { Cycle.quiet with host := some (.write 0x008#13 .word w), txReady := true } →
      ∃ t, step s = .next t
        ∧ (w.getLsbD 4 = false → t.port.tx = some b ∧ t.txFifo = rest)
        ∧ (w.getLsbD 4 = true → t.port.tx = none ∧ t.txFifo = s.txFifo))
  ∧ (∀ (s : State) (w : Word), s.dec.dstate = .accumulating →
      s.cycleNow = { Cycle.quiet with host := some (.write 0x024#13 .word w), tbTick := true } →
      ∃ t, step s = .next t
        ∧ (w.extractLsb' 0 16 ≠ 0#16 ∧ (w.extractLsb' 0 16).toNat ≤ min (s.dec.staleCnt.toNat + 1) 65535 →
            t.dec = emptyDecoder 0#16 ∧ t.cnt.stale = s.cnt.stale + 1#32)
        ∧ (¬ (w.extractLsb' 0 16 ≠ 0#16 ∧ (w.extractLsb' 0 16).toNat ≤ min (s.dec.staleCnt.toNat + 1) 65535) →
            t.dec.dstate = .accumulating ∧ t.cnt = s.cnt))

/-- R900: in a cycle with `rst = 1` every piece of state goes to its reset value and nothing else happens; the instance's
parameters, and the model's own script and clock, go on. The model's choice (notes/assumptions/12.md, 13.md): a write in
that cycle is answered with data 0, and the outputs are those of the state the cycle leaves. -/
def Obligations.ResetCycle : Prop :=
  ∀ s : State, s.cycleNow.rst = true →
    ∃ t, step s = .next t
      ∧ t = { State.resetWith s.param with script := s.script.tail, clk := s.clk + 1, port := t.port }
      ∧ t.port.tx = none ∧ t.txValid = false ∧ t.irqOut = false
      ∧ (s.cycleNow.host = none → t.port.bus = none)
      ∧ (∀ a, s.cycleNow.host = some a → t.port.bus = some { data := 0#32, err := false })

/-- What every register reads after reset, for every legal instance: the reset column of R100 and of the rules of each
register (R101 to R133, R150 to R153), which the spec gathers in a table it marks as derived (R901). -/
def Obligations.ResetRegisterValues : Prop :=
  ∀ p : Param, p.Legal →
    (State.resetWith p).readAt 0x000 = 0x4F4D5207#32
    ∧ ((State.resetWith p).readAt 0x004).toNat = 65536 * p.txqDepth + p.nBins
    ∧ (State.resetWith p).readAt 0x008 = 0x00000C00#32 ∧ (State.resetWith p).readAt 0x00C = 0x00000004#32
    ∧ (∀ a ∈ [0x010, 0x030, 0x014, 0x018, 0x01C, 0x020, 0x028, 0x02C, 0x034, 0x038, 0x03C, 0x040, 0x044, 0x048, 0x04C,
          0x050, 0x054, 0x058, 0x108, 0x13C, 0x140, 0x154, 0x158, 0x174, 0x17C, 0x180, 0x118, 0x144, 0x148, 0x14C, 0x11C,
          0x120, 0x124, 0x960, 0x964, 0x968, 0x978], (State.resetWith p).readAt a = 0x00000000#32)
    ∧ (∀ a ∈ [0x100, 0x128, 0x12C, 0x130, 0x134, 0x138, 0x15C, 0x160, 0x164, 0x168, 0x16C, 0x170, 0x178],
          (State.resetWith p).readAt a = 0x3F800000#32)
    ∧ (State.resetWith p).readAt 0x024 = 0x00000014#32 ∧ (State.resetWith p).readAt 0x104 = 0x3E19999A#32
    ∧ (State.resetWith p).readAt 0x10C = 0x3F7EB852#32 ∧ (State.resetWith p).readAt 0x110 = 0x3A83126F#32
    ∧ (State.resetWith p).readAt 0x114 = 0x3FC00000#32 ∧ (State.resetWith p).readAt 0x150 = 0x00000001#32
    ∧ (State.resetWith p).readAt 0x184 = 0x0000000F#32 ∧ (State.resetWith p).readAt 0x188 = 0x000000F0#32
    ∧ (State.resetWith p).readAt 0x18C = 0x00000F00#32
    ∧ (∀ i : Fin 12, (State.resetWith p).readAt (0x1C0 + 4 * i.val) = 0x00000000#32
        ∧ (State.resetWith p).readAt (0x200 + 4 * i.val) = 0x3F800000#32
        ∧ (State.resetWith p).readAt (0x900 + 4 * i.val) = 0x00000000#32
        ∧ (State.resetWith p).readAt (0x930 + 4 * i.val) = 0x00000000#32)
    ∧ (∀ w : Fin 128, (State.resetWith p).readAt (0x400 + 4 * w.val) = 0xFFFFFFFF#32)
    ∧ (∀ w : Fin 17, (State.resetWith p).readAt (0x600 + 4 * w.val)
          = (if w.val = 12 then 0x00FF0000#32 else if w.val = 16 then 0x0000FF00#32 else 0x00000000#32)
        ∧ (State.resetWith p).readAt (0x700 + 4 * w.val) = 0x00000000#32
        ∧ (State.resetWith p).readAt (0x780 + 4 * w.val) = 0x00000000#32
        ∧ (State.resetWith p).readAt (0x880 + 4 * w.val) = 0x00000000#32)
    ∧ (∀ w : Fin 9, (State.resetWith p).readAt (0x680 + 4 * w.val) = 0x00000000#32
        ∧ (State.resetWith p).readAt (0x800 + 4 * w.val) = 0x00000000#32)
    ∧ (∀ w : Fin 19, (State.resetWith p).readAt (0xA00 + 4 * w.val) = 0x00000000#32)
    ∧ (∀ b : Fin 1024, (State.resetWith p).readAt (0x1000 + 4 * b.val) = 0x00000000#32)
    ∧ (State.resetWith p).readAt 0x96C = 0x0000FFFF#32 ∧ (State.resetWith p).readAt 0x970 = 0x000000FF#32
    ∧ (State.resetWith p).readAt 0x974 = 0x00FF00FF#32
    ∧ (State.resetWith p).dec.dstate = .seekingSof ∧ (State.resetWith p).dec.staleCnt = 0#16
    ∧ (State.resetWith p).txFifo = [] ∧ (State.resetWith p).pending = none

/-! ## NOP and the maintenance commands (40_command_engine.md section 4) -/

/-- R409: NOP completes, sets CMD_DONE and changes nothing else. -/
def Obligations.NopOnlyCompletes : Prop :=
  ∀ s : State, ∃ t, exec .nop s = .next t ∧ t = s.doneWith 0x01#7 t.now ∧ t.irqStatus.getLsbD 0 = true

/-- R407: RESET_DSP sets every item of the DSP history state and both payload images to their reset values, and changes
no other byte of memory and nothing else but CMD_DONE. -/
def Obligations.ResetDspClears : Prop :=
  ∀ s : State, ∃ t, exec .resetDsp s = .next t
    ∧ t = { s.doneWith 0x01#7 t.now with dsp := t.dsp, mem := t.mem }
    ∧ t.dsp = { bandSm := Vector.replicate 12 0x00000000#32, chSm := Vector.replicate 12 0x00000000#32,
                nfloor := 0x00000000#32, floorSeeded := false, env := 0x00000000#32, sinceOnset := 65535#16,
                note := 255#8, nstr := 0#8, candPc := 255#8, candCnt := 0#8, susActive := false, susPc := 255#8,
                vis := Vector.replicate 12 0x00000000#32, gavg := 0x00000000#32 }
    ∧ ImagesCleared s.mem t.mem

/-- R408, R411, R412, R413: RESET_DECODER returns the decoder to its initial state; CLEAR_COUNTERS clears the six
counters and both error records; RESET_SEQ restarts the three transmit sequence counters; FLUSH_TX empties the TX FIFO
(TX_LEVEL = 0, STATUS.TX_EMPTY = 1). Each sets CMD_DONE and changes nothing else. -/
def Obligations.MaintenanceCommands : Prop :=
  ∀ s : State,
    (∃ t, exec .resetDecoder s = .next t ∧ t = { s.doneWith 0x01#7 t.now with dec := emptyDecoder 0#16 })
    ∧ (∃ t, exec .clearCounters s = .next t
        ∧ t = { s.doneWith 0x01#7 t.now with cnt := t.cnt, cmdErr := 0x00000000#32, decErr := 0x00000000#32 }
        ∧ t.cnt = { rxOk := 0#32, lenErr := 0#32, frameErr := 0#32, crcErr := 0#32, stale := 0#32, txDrop := 0#32 })
    ∧ (∃ t, exec .resetSeq s = .next t
        ∧ t = { s.doneWith 0x01#7 t.now with seqTx := { feature := 0x00#8, command := 0x00#8, aux := 0x00#8 } })
    ∧ (∃ t, exec .flushTx s = .next t ∧ t = { s.doneWith 0x01#7 t.now with txFifo := [] }
        ∧ t.readAt 0x028 = 0x00000000#32 ∧ (t.readAt 0x00C).getLsbD 2 = true)

/-! ## The frame-sending commands (40_command_engine.md section 3, 45_frame_encoder.md) -/

/-- R404, R405, R410: SEND_FEATURE sends the 68 bytes of FEAT_IMG, SEND_AUX the 36 bytes of AUX_IMG, SEND_COMMAND mode,
pattern and brightness of TX_CMD and 65 zero bytes, each as one frame of its type. -/
def Obligations.SendCommands : Prop :=
  SendsFrame .sendFeature 0x02#8 .feature 0x01#8 0x44#8 (fun s => s.bytesAt 0x600 68)
  ∧ SendsFrame .sendAux 0x03#8 .aux 0x03#8 0x24#8 (fun s => s.bytesAt 0x680 36)
  ∧ SendsFrame .sendCommand 0x04#8 .command 0x02#8 0x44#8
      (fun s => [s.txCmd.mode, s.txCmd.pattern, s.txCmd.brightness] ++ List.replicate 65 0x00#8)

/-- R406: SEND_RAW sends the first `LEN(TYPE)` bytes of TX_RAW as a frame of that type; TYPE = 0 completes with
BAD_OPCODE and does nothing else. -/
def Obligations.SendRawSends : Prop :=
  SendsFrame .sendRawFeature 0x05#8 .feature 0x01#8 0x44#8 (fun s => s.bytesAt 0x880 68)
  ∧ SendsFrame .sendRawCommand 0x05#8 .command 0x02#8 0x44#8 (fun s => s.bytesAt 0x880 68)
  ∧ SendsFrame .sendRawAux 0x05#8 .aux 0x03#8 0x24#8 (fun s => s.bytesAt 0x880 36)
  ∧ (∀ s : State, s.pending = some { op := 0x05#8, typ := 0#2 } →
      ∃ t, engineStep true s = .next t ∧ t = { s.doneWith 0x41#7 t.now with cmdErr := 0x00000501#32 })

/-! ## CRC16 (45_frame_encoder.md R650, R658) -/

/-- From R650, most significant bit first: the CRC is the same when the bits of each byte enter one by one, bit 7 first, each
compared with the bit that leaves the register. -/
def Obligations.CrcIsBitSerial : Prop :=
  ∀ ds : List Byte,
    crc16 ds =
      (ds.flatMap (fun d => [d.getLsbD 7, d.getLsbD 6, d.getLsbD 5, d.getLsbD 4, d.getLsbD 3, d.getLsbD 2, d.getLsbD 1,
        d.getLsbD 0])).foldl
        (fun (c : BitVec 16) (b : Bool) => if c.getLsbD 15 != b then (c <<< 1) ^^^ 0x1021#16 else c <<< 1) 0xFFFF#16

/-- Any change of one covered byte, and so any single-bit error, changes the CRC. The spec derives this (R658: "Every
single-bit error in the `L + 3` covered bytes changes the CRC") from R650; here it is for a byte, and for any length. -/
def Obligations.CrcDetectsOneByte : Prop :=
  ∀ (before after : List Byte) (a b : Byte), a ≠ b → crc16 (before ++ a :: after) ≠ crc16 (before ++ b :: after)

/-! ## ANALYZE: checks, completion, frames (40_command_engine.md R402, R403) -/

/-- R402, R801, R809: the first failing configuration check refuses ANALYZE: CMD_ERR takes its code, opcode 0x01 and its
detail, and nothing else changes but CMD_DONE and CMD_ERR in IRQ_STATUS. -/
def Obligations.AnalyzeRefusals : Prop :=
  ∀ s : State,
    (∀ i : Fin 12, i.val < s.ctrl.nbands.toNat → ¬ RangeLegal s.param.nBins s.cfg.bandRange[i] →
      (∀ j : Fin 12, j < i → RangeLegal s.param.nBins s.cfg.bandRange[j]) →
      ∃ t, exec .analyze s = .next t
        ∧ t = { s.doneWith 0x41#7 t.now with cmdErr := 0x00#8 ++ BitVec.ofNat 8 i.val ++ 0x01#8 ++ 0x03#8 })
    ∧ (s.ctrl.nbands ≤ 12#4 → s.BandsLegal → ¬ RangeLegal s.param.nBins s.cfg.chRange →
        ∃ t, exec .analyze s = .next t ∧ t = { s.doneWith 0x41#7 t.now with cmdErr := 0x000C0103#32 })
    ∧ (s.ctrl.nbands ≤ 12#4 → s.BandsLegal → RangeLegal s.param.nBins s.cfg.chRange →
        ¬ RangeLegal s.param.nBins s.cfg.vocRange →
        ∃ t, exec .analyze s = .next t ∧ t = { s.doneWith 0x41#7 t.now with cmdErr := 0x000D0103#32 })
    ∧ (s.ctrl.nbands ≤ 12#4 → s.BandsLegal → RangeLegal s.param.nBins s.cfg.chRange →
        RangeLegal s.param.nBins s.cfg.vocRange → ¬ RangeLegal s.param.nBins s.cfg.pkRange →
        ∃ t, exec .analyze s = .next t ∧ t = { s.doneWith 0x41#7 t.now with cmdErr := 0x000E0103#32 })
    ∧ (s.ctrl.nbands ≤ 12#4 → s.BandsLegal → RangeLegal s.param.nBins s.cfg.chRange →
        RangeLegal s.param.nBins s.cfg.vocRange → RangeLegal s.param.nBins s.cfg.pkRange → ¬ s.MasksDisjoint →
        ∃ t, exec .analyze s = .next t ∧ t = { s.doneWith 0x41#7 t.now with cmdErr := 0x00000104#32 })

/-- R402: with a legal configuration ANALYZE completes: TICK_CNT and TICK_DONE move on, and outside the DSP history state
and the two payload images it changes only what its automatic frames change, and nothing of that without them. -/
def Obligations.AnalyzeCompletes : Prop :=
  ∀ s : State, s.AnalyzeLegal →
    ∃ t, exec .analyze s = .next t
      ∧ t = { s.doneWith 0x03#7 t.now with
                irqStatus := t.irqStatus, dsp := t.dsp, mem := t.mem, tickCnt := s.tickCnt + 1#32, txFifo := t.txFifo,
                seqTx := t.seqTx, cnt := { s.cnt with txDrop := t.cnt.txDrop }, cmdErr := t.cmdErr }
      ∧ (t.irqStatus = s.irqStatus ||| 0x03#7 ∨ t.irqStatus = s.irqStatus ||| 0x43#7)
      ∧ (∀ a, ¬ (0x600 ≤ a ∧ a < 0x644) → ¬ (0x680 ≤ a ∧ a < 0x6A4) → memRead t.mem a = memRead s.mem a)
      ∧ (s.ctrl.autoFeat = false → s.ctrl.autoAux = false →
          t.txFifo = s.txFifo ∧ t.seqTx = s.seqTx ∧ t.cnt = s.cnt ∧ t.cmdErr = s.cmdErr
            ∧ t.irqStatus = s.irqStatus ||| 0x03#7)

/-- R402, R403, R654, R655, R805: which frames ANALYZE sends: the new FEATURE image when AUTO_FEAT = 1 and some active
band exceeds SILENCE_THR, then the new AUX image when AUTO_AUX = 1; a frame that does not fit is dropped, counted, recorded
and flagged in IRQ_STATUS, and after a dropped FEATURE frame the AUX frame is still tried. -/
def Obligations.AnalyzeAutomaticFrames : Prop :=
  ∀ s : State, s.AnalyzeLegal →
    ∃ t, exec .analyze s = .next t
      ∧ (let gate := s.activeList.any (fun i => fgt t.dsp.bandSm[i] s.cfg.tun.silenceThr)
         let feature := wireFrame 0x01#8 s.seqTx.feature 0x44#8 (t.bytesAt 0x600 68)
         let aux := wireFrame 0x03#8 s.seqTx.aux 0x24#8 (t.bytesAt 0x680 36)
         let free := s.param.txqDepth - s.txFifo.length
         (s.ctrl.autoFeat = true → gate = true → s.ctrl.autoAux = true → 118 ≤ free →
            t.txFifo = s.txFifo ++ feature ++ aux
            ∧ t.seqTx = { s.seqTx with feature := s.seqTx.feature + 1#8, aux := s.seqTx.aux + 1#8 }
            ∧ t.cnt = s.cnt ∧ t.cmdErr = s.cmdErr ∧ t.irqStatus = s.irqStatus ||| 0x03#7)
         ∧ (s.ctrl.autoFeat = true → gate = true → s.ctrl.autoAux = false → 75 ≤ free →
            t.txFifo = s.txFifo ++ feature ∧ t.seqTx = { s.seqTx with feature := s.seqTx.feature + 1#8 }
            ∧ t.cnt = s.cnt ∧ t.cmdErr = s.cmdErr ∧ t.irqStatus = s.irqStatus ||| 0x03#7)
         ∧ (s.ctrl.autoFeat = true → gate = true → s.ctrl.autoAux = false → free < 75 →
            t.txFifo = s.txFifo ∧ t.seqTx = s.seqTx ∧ t.cnt = { s.cnt with txDrop := s.cnt.txDrop + 1#32 }
            ∧ t.cmdErr = 0x00010105#32 ∧ t.irqStatus = s.irqStatus ||| 0x43#7)
         ∧ ((s.ctrl.autoFeat = false ∨ gate = false) → s.ctrl.autoAux = true → 43 ≤ free →
            t.txFifo = s.txFifo ++ aux ∧ t.seqTx = { s.seqTx with aux := s.seqTx.aux + 1#8 }
            ∧ t.cnt = s.cnt ∧ t.cmdErr = s.cmdErr ∧ t.irqStatus = s.irqStatus ||| 0x03#7)
         ∧ ((s.ctrl.autoFeat = false ∨ gate = false) → s.ctrl.autoAux = true → free < 43 →
            t.txFifo = s.txFifo ∧ t.seqTx = s.seqTx ∧ t.cnt = { s.cnt with txDrop := s.cnt.txDrop + 1#32 }
            ∧ t.cmdErr = 0x00030105#32 ∧ t.irqStatus = s.irqStatus ||| 0x43#7)
         ∧ ((s.ctrl.autoFeat = false ∨ gate = false) → s.ctrl.autoAux = false →
            t.txFifo = s.txFifo ∧ t.seqTx = s.seqTx ∧ t.cnt = s.cnt ∧ t.cmdErr = s.cmdErr
            ∧ t.irqStatus = s.irqStatus ||| 0x03#7)
         ∧ (s.ctrl.autoFeat = true → gate = true → s.ctrl.autoAux = true → 75 ≤ free → free < 118 →
            t.txFifo = s.txFifo ++ feature ∧ t.seqTx = { s.seqTx with feature := s.seqTx.feature + 1#8 }
            ∧ t.cnt = { s.cnt with txDrop := s.cnt.txDrop + 1#32 } ∧ t.cmdErr = 0x00030105#32
            ∧ t.irqStatus = s.irqStatus ||| 0x43#7)
         ∧ (s.ctrl.autoFeat = true → gate = true → s.ctrl.autoAux = true → 43 ≤ free → free < 75 →
            t.txFifo = s.txFifo ++ aux ∧ t.seqTx = { s.seqTx with aux := s.seqTx.aux + 1#8 }
            ∧ t.cnt = { s.cnt with txDrop := s.cnt.txDrop + 1#32 } ∧ t.cmdErr = 0x00010105#32
            ∧ t.irqStatus = s.irqStatus ||| 0x43#7)
         ∧ (s.ctrl.autoFeat = true → gate = true → s.ctrl.autoAux = true → free < 43 →
            t.txFifo = s.txFifo ∧ t.seqTx = s.seqTx
            ∧ t.cnt = { s.cnt with txDrop := s.cnt.txDrop + 2#32 } ∧ t.cmdErr = 0x00030105#32
            ∧ t.irqStatus = s.irqStatus ||| 0x43#7))

/-! ## ANALYZE: what each stage computes (41 to 44) -/

/-- R451, R452, R453 (and R454 for the inactive bands): RMS, gain and tilt, smoothing; the new energies stand in FEAT_IMG
words 0 to 11 (R320). -/
def Obligations.AnalyzeBandEnergies : Prop :=
  ∀ s : State, s.AnalyzeLegal →
    ∃ t, exec .analyze s = .next t
      ∧ ∀ i : Fin 12,
        (i.val < s.ctrl.nbands.toNat →
          t.dsp.bandSm[i] = fadd (fmul s.cfg.tun.alphaBand s.dsp.bandSm[i])
            (fmul (fsub 0x3F800000#32 s.cfg.tun.alphaBand) (s.rawEnergy i)))
        ∧ (s.ctrl.nbands.toNat ≤ i.val → t.dsp.bandSm[i] = 0x00000000#32)
        ∧ memReadWord t.mem (0x600 + 4 * i.val) = t.dsp.bandSm[i]

/-- R501, R502: the power of the bins of each pitch class, its root, smoothed. -/
def Obligations.AnalyzeChroma : Prop :=
  ∀ s : State, s.AnalyzeLegal →
    ∃ t, exec .analyze s = .next t
      ∧ ∀ p : Fin 12, t.dsp.chSm[p] = fadd (fmul s.cfg.tun.alphaChroma s.dsp.chSm[p])
          (fmul (fsub 0x3F800000#32 s.cfg.tun.alphaChroma) (s.chromaAmp p))

/-- R503, R504, R505: the first maximum of the smoothed chroma scales the twelve chroma bytes; it is reported as the
dominant pitch, with its strength, when it clears the floor and the confidence ratio, else 255 and 0. -/
def Obligations.AnalyzePitch : Prop :=
  ∀ s : State, s.AnalyzeLegal →
    ∃ t, exec .analyze s = .next t
      ∧ ∃ am : Fin 12,
        (fIsNaN t.dsp.chSm[0] = true → am = 0)
        ∧ (fIsNaN t.dsp.chSm[0] = false →
            (∀ p : Fin 12, fgt t.dsp.chSm[p] t.dsp.chSm[am] = false)
            ∧ (∀ p : Fin 12, p < am → fIsNaN t.dsp.chSm[p] = false → fgt t.dsp.chSm[am] t.dsp.chSm[p] = true))
        ∧ (let floor := s.cfg.tun.minPeak
           let dv := if fgt t.dsp.chSm[am] floor then t.dsp.chSm[am] else floor
           let mean := fdiv (sumOf t.dsp.chSm.toList) (f32OfNat 12)
           let pr := fdiv t.dsp.chSm[am] (if fgt mean floor then mean else floor)
           (∀ p : Fin 12, memRead t.mem (0x635 + p.val) = q8 (fdiv t.dsp.chSm[p] dv))
           ∧ (s.cfg.chFloor < memRead t.mem (0x635 + am.val) ∧ fgt pr s.cfg.tun.confRatio = true →
               memRead t.mem 0x641 = BitVec.ofNat 8 am.val ∧ memRead t.mem 0x642 = str8 pr)
           ∧ (¬ (s.cfg.chFloor < memRead t.mem (0x635 + am.val) ∧ fgt pr s.cfg.tun.confRatio = true) →
               memRead t.mem 0x641 = 255#8 ∧ memRead t.mem 0x642 = 0#8))

/-- R551 to R555: noise floor, gate, asymmetric smoothing, envelope byte. -/
def Obligations.AnalyzeEnvelope : Prop :=
  ∀ s : State, s.AnalyzeLegal →
    ∃ t, exec .analyze s = .next t
      ∧ (let rawv := fmul (s.rmsOf s.cfg.vocRange) s.cfg.tun.vocScale
         let gated := fclamp01 (fmul (fpos (fsub rawv (fmul t.dsp.nfloor s.cfg.tun.vocMargin))) s.cfg.tun.gateScale)
         t.dsp.floorSeeded = true
         ∧ (s.dsp.floorSeeded = false → t.dsp.nfloor = rawv)
         ∧ (s.dsp.floorSeeded = true → t.dsp.nfloor = fadd (fmul s.cfg.tun.betaFloor s.dsp.nfloor)
              (fmul (fsub 0x3F800000#32 s.cfg.tun.betaFloor) rawv))
         ∧ (fgt gated s.dsp.env = true →
              t.dsp.env = fadd s.dsp.env (fmul s.cfg.tun.attack (fsub gated s.dsp.env)))
         ∧ (fgt gated s.dsp.env = false →
              t.dsp.env = fadd s.dsp.env (fmul s.cfg.tun.releaseCoef (fsub gated s.dsp.env)))
         ∧ memRead t.mem 0x630 = q8 t.dsp.env)

/-- R556: the onset test, its counter and its flag byte; while the counter is below REFRACT no onset occurs, whatever the
envelope does. -/
def Obligations.AnalyzeOnset : Prop :=
  ∀ s : State, s.AnalyzeLegal →
    ∃ t, exec .analyze s = .next t
      ∧ (let since := min (s.dsp.sinceOnset.toNat + 1) 65535
         let onset := fgt t.dsp.env s.cfg.tun.onsetThr && fgt (fsub t.dsp.env s.dsp.env) s.cfg.tun.slopeThr
           && decide (s.cfg.refract.toNat ≤ since)
         (onset = true → t.dsp.sinceOnset = 0#16 ∧ memRead t.mem 0x631 = 0x01#8)
         ∧ (onset = false → t.dsp.sinceOnset.toNat = since ∧ memRead t.mem 0x631 = 0x00#8)
         ∧ (s.dsp.sinceOnset.toNat + 1 < s.cfg.refract.toNat →
              memRead t.mem 0x631 = 0x00#8 ∧ t.dsp.sinceOnset.toNat = s.dsp.sinceOnset.toNat + 1))

/-- R558: sustain: exit, the candidate run, entry, in this order; the flag byte. -/
def Obligations.AnalyzeSustain : Prop :=
  ∀ s : State, s.AnalyzeLegal →
    ∃ t, exec .analyze s = .next t
      ∧ (let dom := memRead t.mem 0x641
         let run := dom != 255#8 && fgt t.dsp.env s.cfg.tun.susEngage
         (run = true → dom = s.dsp.candPc →
            t.dsp.candPc = dom ∧ t.dsp.candCnt.toNat = min (s.dsp.candCnt.toNat + 1) 255)
         ∧ (run = true → dom ≠ s.dsp.candPc → t.dsp.candPc = dom ∧ t.dsp.candCnt = 1#8)
         ∧ (run = false → t.dsp.candPc = 255#8 ∧ t.dsp.candCnt = 0#8)
         ∧ (s.cfg.susN ≤ t.dsp.candCnt → t.dsp.susActive = true ∧ t.dsp.susPc = t.dsp.candPc)
         ∧ (t.dsp.candCnt < s.cfg.susN → t.dsp.susPc = s.dsp.susPc
              ∧ t.dsp.susActive = (s.dsp.susActive && !flt t.dsp.env s.cfg.tun.susRelease))
         ∧ memRead t.mem 0x643 = (if t.dsp.susActive then 0x01#8 else 0x00#8))

/-- R557, R559, R560: note attribution on an onset, inside the post-onset window, after it; the lock flag. -/
def Obligations.AnalyzeNote : Prop :=
  ∀ s : State, s.AnalyzeLegal →
    ∃ t, exec .analyze s = .next t
      ∧ (let dom := memRead t.mem 0x641
         let pstr := memRead t.mem 0x642
         let confident := dom != 255#8 && decide (s.cfg.noteMinStr ≤ pstr)
         let onset := memRead t.mem 0x631
         let window := decide (t.dsp.sinceOnset.toNat ≤ s.cfg.postWin.toNat)
         (onset = 0x01#8 → confident = true → t.dsp.note = dom ∧ t.dsp.nstr = pstr)
         ∧ (onset = 0x01#8 → confident = false → t.dsp.note = 255#8 ∧ t.dsp.nstr = 0#8)
         ∧ (onset = 0x00#8 → window = true → s.dsp.note = 255#8 → confident = true →
              t.dsp.note = dom ∧ t.dsp.nstr = pstr)
         ∧ (onset = 0x00#8 → window = true → (s.dsp.note ≠ 255#8 ∨ confident = false) →
              t.dsp.note = s.dsp.note ∧ t.dsp.nstr = s.dsp.nstr)
         ∧ (onset = 0x00#8 → window = false → t.dsp.susActive = true →
              t.dsp.note = t.dsp.susPc ∧ t.dsp.nstr = pstr)
         ∧ (onset = 0x00#8 → window = false → t.dsp.susActive = false → t.dsp.note = 255#8 ∧ t.dsp.nstr = 0#8)
         ∧ memRead t.mem 0x632 = t.dsp.note ∧ memRead t.mem 0x633 = t.dsp.nstr
         ∧ memRead t.mem 0x634 = (if t.dsp.note = 255#8 then 0x00#8 else 0x01#8))

/-- R601, R602, R603: the first maximum of the peak range, parabolic refinement, the clamp to Nyquist, the magnitude. -/
def Obligations.AnalyzePeak : Prop :=
  ∀ s : State, s.AnalyzeLegal →
    ∃ t, exec .analyze s = .next t
      ∧ ∃ k : Nat, s.cfg.pkRange.lo.toNat ≤ k ∧ k ≤ s.cfg.pkRange.hi.toNat
        ∧ (∀ b, s.cfg.pkRange.lo.toNat ≤ b → b ≤ s.cfg.pkRange.hi.toNat →
            fgt (s.magnitude b) (s.magnitude k) = false)
        ∧ (∀ b, s.cfg.pkRange.lo.toNat ≤ b → b < k → fgt (s.magnitude k) (s.magnitude b) = true)
        ∧ (let l := s.magnitude (k - 1)
           let r := s.magnitude (k + 1)
           let den := fadd (fsub l (fmul 0x40000000#32 (s.magnitude k))) r
           let off := if k ≠ s.cfg.pkRange.lo.toNat ∧ k ≠ s.cfg.pkRange.hi.toNat ∧ feq den 0x00000000#32 = false
             then fmul 0x3F000000#32 (fdiv (fsub l r) den) else 0x00000000#32
           let fr := fmul (fadd (f32OfNat k) off) s.cfg.tun.binHz
           let nyq := fmul (f32OfNat s.param.nBins) s.cfg.tun.binHz
           memRead t.mem 0x69D ++ memRead t.mem 0x69C = hz16 (if fgt fr nyq then nyq else fr)
           ∧ memRead t.mem 0x69E = q8 (compressed s.cfg.tun.kPk (s.magnitude k)))

/-- R604, R605: the visual levels, 70 % of the previous and 30 % of the compressed raw energy, and the boosted rises. -/
def Obligations.AnalyzeVisualLevels : Prop :=
  ∀ s : State, s.AnalyzeLegal →
    ∃ t, exec .analyze s = .next t
      ∧ ∀ i : Fin 12,
        (i.val < s.ctrl.nbands.toNat →
          t.dsp.vis[i] = fadd (fmul 0x3F333333#32 s.dsp.vis[i])
            (fmul 0x3E99999A#32 (compressed s.cfg.tun.kVis (fmul (s.rawEnergy i) s.cfg.tun.visScale)))
          ∧ memRead t.mem (0x680 + i.val) = q8 t.dsp.vis[i]
          ∧ memRead t.mem (0x68C + i.val) = q8 (fclamp01 (fmul (riseOf s t i) s.cfg.tun.deltaGain)))
        ∧ (s.ctrl.nbands.toNat ≤ i.val → t.dsp.vis[i] = 0x00000000#32
          ∧ memRead t.mem (0x680 + i.val) = 0x00#8
          ∧ memRead t.mem (0x68C + i.val) = 0x00#8)

/-- R606 to R609: the aggregates over the new levels, the flux over the rises, the peak gate against the old average, the
band count and the reserved bytes. -/
def Obligations.AnalyzeAggregates : Prop :=
  ∀ s : State, s.AnalyzeLegal →
    ∃ t, exec .analyze s = .next t
      ∧ (let glob := fsqrt (fdiv (sumOf (s.activeList.map (fun i => fmul t.dsp.vis[i] t.dsp.vis[i])))
           (f32OfNat s.ctrl.nbands.toNat))
         memRead t.mem 0x698 = q8 glob
         ∧ memRead t.mem 0x699 = q8 (meanOf (s.levelsIn t s.cfg.bassMask))
         ∧ memRead t.mem 0x69A = q8 (meanOf (s.levelsIn t s.cfg.midMask))
         ∧ memRead t.mem 0x69B = q8 (meanOf (s.levelsIn t s.cfg.trebMask))
         ∧ memRead t.mem 0x69F = q8 (fclamp01 (fmul s.cfg.tun.fluxScale (sumOf (s.activeList.map (riseOf s t)))))
         ∧ memRead t.mem 0x6A0 = (if fgt glob (fmul s.dsp.gavg s.cfg.tun.pkRatio) && fgt glob s.cfg.tun.pkFloor
             then 0x01#8 else 0x00#8)
         ∧ t.dsp.gavg = fadd (fmul s.cfg.tun.gammaPk s.dsp.gavg) (fmul (fsub 0x3F800000#32 s.cfg.tun.gammaPk) glob)
         ∧ memRead t.mem 0x6A1 = BitVec.ofNat 8 s.ctrl.nbands.toNat
         ∧ memRead t.mem 0x6A2 = 0x00#8 ∧ memRead t.mem 0x6A3 = 0x00#8)

/-- The example of R402: ANALYZE from reset, with BIN RAM all `+0.0`, for every legal instance and every `NUM.log1p` that
meets R11. -/
def Obligations.AnalyzeFromReset : Prop :=
  ∀ p : Param, p.Legal →
    ∃ t, exec .analyze (State.resetWith p) = .next t
      ∧ (∀ k, k < 68 → memRead t.mem (0x600 + k) = (if k = 50 ∨ k = 65 then 0xFF#8 else 0x00#8))
      ∧ (∀ k, k < 36 → memRead t.mem (0x680 + k) = (if k = 33 then 12#8 else 0x00#8))
      ∧ t.dsp.floorSeeded = true ∧ t.tickCnt = 1#32

/-- R604: the visual levels stay in `[0, 1]` through every cycle. -/
def Obligations.VisualLevelsStayUnit : Prop :=
  ∀ s t : State, (∀ i : Fin 12, inUnit s.dsp.vis[i] = true) → step s = .next t →
    ∀ i : Fin 12, inUnit t.dsp.vis[i] = true

/-! ## The frame decoder (46_frame_decoder.md) -/

/-- R703, R712: a whole frame with a right EOF byte and a right CRC is delivered, of each of the three types. -/
def Obligations.FramesAreDelivered : Prop :=
  ∀ (s : State) (seq : Byte) (payload : List Byte),
    (payload.length = 68 →
      ∃ t, exec (.frameFeature seq payload (crc16 (0x01#8 :: seq :: 0x44#8 :: payload)) 0xBB#8) s = .next t
        ∧ Delivered s t .feature 0x04#7 0x700 seq payload)
    ∧ (payload.length = 68 →
      ∃ t, exec (.frameCommand seq payload (crc16 (0x02#8 :: seq :: 0x44#8 :: payload)) 0xBB#8) s = .next t
        ∧ Delivered s t .command 0x08#7 0x780 seq payload)
    ∧ (payload.length = 36 →
      ∃ t, exec (.frameAux seq payload (crc16 (0x03#8 :: seq :: 0x24#8 :: payload)) 0xBB#8) s = .next t
        ∧ Delivered s t .aux 0x10#7 0x800 seq payload)

/-- R705, R706, R806: a wrong EOF byte is a FramingError whatever the CRC says, and a wrong CRC behind a right EOF byte a
ChecksumError: the error is recorded and counted, RX_ERR is set, Resync runs (R708), and nothing else changes. -/
def Obligations.BadFramesAreRejected : Prop :=
  ∀ (s : State) (seq : Byte) (payload : List Byte) (crc : BitVec 16) (eof : Byte),
    (eof ≠ 0xBB#8 →
      ∀ i ∈ [Instr.frameFeature seq payload crc eof, .frameCommand seq payload crc eof, .frameAux seq payload crc eof],
        ∃ t, exec i s = .next t
          ∧ t = { s with
                    dec := s.resync.dec, decErr := recordOf s.dec 2#4, irqStatus := s.irqStatus ||| 0x20#7, now := t.now
                    cnt := { s.cnt with frameErr := s.cnt.frameErr + 1#32 } })
    ∧ (∀ it ∈ [(Instr.frameFeature seq payload crc 0xBB#8, 0x01#8, 0x44#8), (.frameCommand seq payload crc 0xBB#8, 0x02#8,
          0x44#8), (.frameAux seq payload crc 0xBB#8, 0x03#8, 0x24#8)],
        crc ≠ crc16 (it.2.1 :: seq :: it.2.2 :: payload) →
        ∃ t, exec it.1 s = .next t
          ∧ t = { s with
                    dec := s.resync.dec, decErr := recordOf s.dec 3#4, irqStatus := s.irqStatus ||| 0x20#7, now := t.now
                    cnt := { s.cnt with crcErr := s.cnt.crcErr + 1#32 } })

/-- R708: Resync keeps the buffer from the smallest index `j ≥ 1` that holds SOF, shifted to the front, with zeros behind
it; without one it clears the buffer and returns to SEEKING_SOF. -/
def Obligations.ResyncKeepsFromFirstSof : Prop :=
  ∀ s : State, s.dec.blen ≤ 75 →
    (∀ j, 1 ≤ j → j < s.dec.blen → s.dec.dbuf.toList.getD j 0x00#8 = 0xAA#8 →
      (∀ k, 1 ≤ k → k < j → s.dec.dbuf.toList.getD k 0x00#8 ≠ 0xAA#8) →
      s.resync = { s with
        dec := { dstate := .accumulating, blen := s.dec.blen - j, staleCnt := s.dec.staleCnt
                 dbuf := Vector.ofFn (fun k : Fin 75 =>
                   if k.val < s.dec.blen - j then s.dec.dbuf.toList.getD (j + k.val) 0x00#8 else 0x00#8) } })
    ∧ ((∀ k, 1 ≤ k → k < s.dec.blen → s.dec.dbuf.toList.getD k 0x00#8 ≠ 0xAA#8) →
      s.resync = { s with dec := emptyDecoder s.dec.staleCnt })

/-- R700, R701, R703, R704: SEEKING_SOF takes SOF alone and drops any other byte without an error; a byte that leaves the
header or the frame incomplete is appended; an unknown header at the fourth byte is a LengthMismatch followed by Resync.
A byte of the source not selected, or any byte while RX_EN = 0, leaves no trace. That the bus response to an RX_PUSH write
carries data 0 is the model's choice (notes/assumptions/12.md). -/
def Obligations.DecoderByteStep : Prop :=
  ∀ (s : State) (x : Byte),
    (s.dec.dstate = .seekingSof → s.dec.blen = 0 → x = 0xAA#8 →
      ∃ t, byteStep x s = .next t ∧ t = { s with dec := s.dec.withNext x, now := t.now })
    ∧ (s.dec.dstate = .seekingSof → x ≠ 0xAA#8 →
      ∃ t, byteStep x s = .next t ∧ t = { s with dec := { s.dec with staleCnt := 0#16 }, now := t.now })
    ∧ (s.dec.Inv → s.dec.dstate = .accumulating →
      (s.dec.blen + 1 < 4 ∨ ∃ ft, knownHeader (s.dec.withNext x).dbuf[1] (s.dec.withNext x).dbuf[3] = some ft
        ∧ s.dec.blen + 1 < ft.len + 7) →
      ∃ t, byteStep x s = .next t ∧ t = { s with dec := s.dec.withNext x, now := t.now })
    ∧ (s.dec.Inv → s.dec.blen = 3 → knownHeader (s.dec.withNext x).dbuf[1] (s.dec.withNext x).dbuf[3] = none →
      ∃ t, byteStep x s = .next t
        ∧ t = { s with
                  dec := ({ s with dec := s.dec.withNext x } : State).resync.dec
                  decErr := recordOf (s.dec.withNext x) 1#4, irqStatus := s.irqStatus ||| 0x20#7, now := t.now
                  cnt := { s.cnt with lenErr := s.cnt.lenErr + 1#32 } })
    ∧ (s.ctrl.rxEn = true → s.ctrl.rxSrc = false → rxPortStep x s = byteStep x s)
    ∧ ((s.ctrl.rxEn = false ∨ s.ctrl.rxSrc = true) → rxPortStep x s = .next s)
    ∧ (∀ w : Word, s.ctrl.rxEn = true → s.ctrl.rxSrc = true →
        hostAccess (.write 0x030#13 .word w) s = byteStep (w.extractLsb' 0 8) (s.answered 0#32 false))
    ∧ (∀ w : Word, (s.ctrl.rxEn = false ∨ s.ctrl.rxSrc = false) →
        hostAccess (.write 0x030#13 .word w) s = .next (s.answered 0#32 false))

/-- The bytes of an encoded frame, delivered on `rx` one a cycle to a decoder in SEEKING_SOF, make the decoder deliver
that frame and nothing else: payload and sequence byte come out as they went in, whatever they are. The spec derives this
(R657: "makes the decoder deliver exactly one frame, of type t, whose snapshot bytes equal P"). -/
def Obligations.EncodedFrameIsDecoded : Prop :=
  ∀ (s : State) (ft : FrameType) (seq : Byte) (payload : List Byte) (rest : List Cycle),
    s.DecoderInv → s.dec.dstate = .seekingSof → s.ctrl.rxEn = true → s.ctrl.rxSrc = false → payload.length = ft.len →
    s.script = (wireFrame (frameCode ft) seq (frameLenByte ft) payload).map rxCycle ++ rest →
    ∃ t, Reaches (ft.len + 7) s t ∧ t.script = rest ∧ t.bytesAt (rxBase ft) ft.len = payload
      ∧ t.seqRx = s.seqRx.set ft seq ∧ t.cnt = { s.cnt with rxOk := s.cnt.rxOk + 1#32 } ∧ t.decErr = s.decErr
      ∧ t.irqStatus = s.irqStatus ||| irqRx ft ∧ t.dec.dstate = .seekingSof

/-- R720: the timebase step: a byte taken in the same cycle wins; SEEKING_SOF and STALE_TIMEOUT = 0 ignore the strobe;
else the count goes up, and at the timeout StaleFrame is recorded and the buffer cleared without a rescan. -/
def Obligations.StaleTimeout : Prop :=
  ∀ s : State,
    (s.now.byteTaken = true → timebaseStep s = s)
    ∧ ((s.dec.dstate = .seekingSof ∨ s.staleTimeout = 0#16) → timebaseStep s = s)
    ∧ (s.now.byteTaken = false → s.dec.dstate = .accumulating → s.staleTimeout ≠ 0#16 →
        min (s.dec.staleCnt.toNat + 1) 65535 < s.staleTimeout.toNat →
        timebaseStep s = { s with dec := { s.dec with staleCnt := s.dec.staleCnt + 1#16 } })
    ∧ (s.now.byteTaken = false → s.dec.dstate = .accumulating → s.staleTimeout ≠ 0#16 →
        s.staleTimeout.toNat ≤ min (s.dec.staleCnt.toNat + 1) 65535 →
        timebaseStep s = { s with
          dec := emptyDecoder 0#16, decErr := recordOf s.dec 4#4, irqStatus := s.irqStatus ||| 0x20#7
          cnt := { s.cnt with stale := s.cnt.stale + 1#32 }, now := (timebaseStep s).now })
    ∧ (∀ x : Byte, s.DecoderInv → s.ctrl.rxEn = true → s.ctrl.rxSrc = false →
        s.cycleNow = { Cycle.quiet with rx := some x, tbTick := true } →
        ∃ t, step s = .next t ∧ byteStep x s.startCycle = .next t)

/-! ## Invariants and whole-machine rules -/

/-- Every cycle keeps the decoder invariants. The spec derives them (R155 (1) to (4), R709: "After every byte step, either
`blen < 4`, or `known(dbuf[1], dbuf[3])` and `blen < LEN(dbuf[1]) + 7`"); that bytes at `blen` and above are 0 is read
from R701, R703 and R708. -/
def Obligations.DecoderInvariantKept : Prop :=
  ∀ s t : State, s.DecoderInv → step s = .next t → t.DecoderInv

/-- From a state that meets the decoder invariants the block always goes on: the decoder buffer never overflows (which the
spec derives: R709), and nothing else stops it. The fault this rules out is the model's own (notes/assumptions/9.md). -/
def Obligations.StepNeverStops : Prop :=
  ∀ s : State, s.DecoderInv → StepsOn s

/-- Every cycle keeps memory in its canonical form, with nothing listed outside the data windows of R100. The canonical
form is the model's own (notes/assumptions/8.md). -/
def Obligations.MemoryInvariantKept : Prop :=
  ∀ s t : State, s.MemoryInv → step s = .next t → t.MemoryInv

/-- Every cycle keeps the inactive bands at `+0.0` and FEAT_IMG's band words equal to `band_sm`. The spec derives this
(R155 (5)) from R402 and R454; re-grouping and RESET_DSP (R104, R124, R407) keep it too. -/
def Obligations.ImagesInvariantKept : Prop :=
  ∀ s t : State, s.ImagesInv → step s = .next t → t.ImagesInv

/-- R102, R104, R121, R152: the parameters are constant, and every cycle keeps NBANDS and SUS_N at legal values and the TX
FIFO within its capacity. -/
def Obligations.LegalValuesKept : Prop :=
  ∀ s t : State, step s = .next t →
    t.param = s.param ∧ (s.FieldsLegal → t.FieldsLegal) ∧ (s.FifoBounded → t.FifoBounded)

/-- The reset state of every legal instance is a safe state: the invariants stated here hold at reset. -/
def Obligations.ResetIsSafe : Prop :=
  ∀ p : Param, p.Legal → (State.resetWith p).Inv

/-- R140, R211, R214: while a command is pending and does not complete, no cycle changes it, the configuration, the DSP
history state, the transmit sequence counters, a payload image, PCLASS_LUT, TX_RAW or BIN RAM; of the TX FIFO, whose free
space a frame-sending command reads too, bytes may leave at the front and none enters. -/
def Obligations.PendingCommandSeesItsConfiguration : Prop :=
  ∀ s t : State, s.cycleNow.rst = false → s.cycleNow.complete = false → s.pending ≠ none → step s = .next t →
    t.pending = s.pending ∧ t.ctrl = s.ctrl ∧ t.txCmd = s.txCmd ∧ t.cfg = s.cfg ∧ t.dsp = s.dsp ∧ t.tickCnt = s.tickCnt
      ∧ t.seqTx = s.seqTx ∧ t.txFifo <:+ s.txFifo
      ∧ ∀ a, (0x400 ≤ a ∧ a < 0x700) ∨ (0x880 ≤ a ∧ a < 0x8C4) ∨ 0x1000 ≤ a → memRead t.mem a = memRead s.mem a

/-- R118, R902: TICK_CNT only ever counts up by one, at the completion of an ANALYZE; nothing but `rst` clears it. -/
def Obligations.TickCountCountsAnalyze : Prop :=
  ∀ s t : State, s.cycleNow.rst = false → step s = .next t →
    t.tickCnt = s.tickCnt
    ∨ (t.tickCnt = s.tickCnt + 1#32 ∧ s.cycleNow.complete = true ∧ ∃ p, s.pending = some p ∧ p.op = 0x01#8)

/-! ## The host bus and the registers (10_state.md, 20_memory.md) -/

/-- R113, R201, R205, R206: a read of an aligned word returns the register and changes no state, except that a read of
TX_DATA with TX_SINK = 1 takes the oldest byte; a narrow or misaligned access changes nothing and gets the error
response. That the response to a refused write carries data 0 is the model's choice (notes/assumptions/12.md). -/
def Obligations.HostReadsAndBusErrors : Prop :=
  ∀ (s : State) (a : BitVec 13),
    (a.toNat % 4 = 0 → ¬ (a = 0x02C#13 ∧ s.ctrl.txSink = true) →
      hostAccess (.read a .word) s = .next (s.answered (s.readAt a.toNat) false))
    ∧ (∀ b rest, s.ctrl.txSink = true → s.txFifo = b :: rest →
      hostAccess (.read 0x02C#13 .word) s
        = .next (({ s with txFifo := rest } : State).answered (0#23 ++ 1#1 ++ b) false))
    ∧ ((s.ctrl.txSink = false ∨ s.txFifo = []) →
      hostAccess (.read 0x02C#13 .word) s = .next (s.answered 0x00000000#32 false))
    ∧ (∀ (width : AccessWidth) (w : Word), (a.toNat % 4 ≠ 0 ∨ width ≠ .word) →
      hostAccess (.read a width) s = .next (s.answered 0x00000000#32 true)
      ∧ hostAccess (.write a width w) s = .next (s.answered 0x00000000#32 true))

/-- R140, R400, R805: while a command is pending, a write to an engine-owned register is dropped with WRITE_BUSY, and a
write to CMD with CMD_BUSY; a write to any other register takes effect whether or not the engine is busy. With the engine
empty, a CMD write makes its word the pending command. Of the model (notes/assumptions/10.md, 12.md): a BIN RAM word at
`N_BINS` or above counts as engine-owned too, and the bus response to a write carries data 0. -/
def Obligations.BusyWrites : Prop :=
  ∀ (s : State) (a : BitVec 13) (w : Word), a.toNat % 4 = 0 →
    (s.pending ≠ none → ownedSpace a.toNat = true →
      ∃ t, hostAccess (.write a .word w) s = .next t
        ∧ t = { s.answered 0#32 false with
                  cmdErr := 0x00000006#32, irqStatus := s.irqStatus ||| 0x40#7, now := t.now })
    ∧ (ownedSpace a.toNat = false →
      hostAccess (.write a .word w) s = (s.answered 0#32 false).storeReg w (regAt a.toNat))
    ∧ (s.pending ≠ none →
      ∃ t, hostAccess (.write 0x010#13 .word w) s = .next t
        ∧ t = { s.answered 0#32 false with
                  cmdErr := 0x0000#16 ++ w.extractLsb' 0 8 ++ 0x02#8, irqStatus := s.irqStatus ||| 0x40#7, now := t.now })
    ∧ (s.pending = none →
      hostAccess (.write 0x010#13 .word w) s
        = .next { s.answered 0#32 false with pending := some { op := w.extractLsb' 0 8, typ := w.extractLsb' 8 2 } })

/-- R103, R104, R124, R721: what an accepted write to CTRL or to BAND_RANGE[i] does: NBANDS is WARL 1 to 12; a change of
NBANDS or of a stored band range clears the DSP history state and both images; RX_EN going from 1 to 0 resets the
decoder; nothing else changes. That the write's bus response carries data 0 is the model's choice
(notes/assumptions/12.md). -/
def Obligations.RegroupingWrites : Prop :=
  ∀ (s : State) (w : Word), s.pending = none →
    (∃ t, hostAccess (.write 0x008#13 .word w) s = .next t
      ∧ t = { s.answered 0#32 false with ctrl := t.ctrl, dec := t.dec, dsp := t.dsp, mem := t.mem }
      ∧ t.ctrl = { rxEn := w.getLsbD 0, autoFeat := w.getLsbD 1, autoAux := w.getLsbD 2, rxSrc := w.getLsbD 3,
                   txSink := w.getLsbD 4
                   nbands := if 1 ≤ (w.extractLsb' 8 4).toNat ∧ (w.extractLsb' 8 4).toNat ≤ 12 then w.extractLsb' 8 4
                     else s.ctrl.nbands }
      ∧ t.dec = (if s.ctrl.rxEn = true ∧ w.getLsbD 0 = false then emptyDecoder 0#16 else s.dec)
      ∧ (t.ctrl.nbands ≠ s.ctrl.nbands → t.dsp = DspHistory.reset ∧ ImagesCleared s.mem t.mem)
      ∧ (t.ctrl.nbands = s.ctrl.nbands → t.dsp = s.dsp ∧ t.mem = s.mem))
    ∧ (∀ i : Fin 12,
      ∃ t, hostAccess (.write (BitVec.ofNat 13 (0x1C0 + 4 * i.val)) .word w) s = .next t
        ∧ t = { s.answered 0#32 false with cfg := t.cfg, dsp := t.dsp, mem := t.mem }
        ∧ t.cfg = { s.cfg with
                      bandRange := s.cfg.bandRange.set i.val { lo := w.extractLsb' 0 10, hi := w.extractLsb' 16 10 } }
        ∧ (s.cfg.bandRange[i] ≠ { lo := w.extractLsb' 0 10, hi := w.extractLsb' 16 10 } →
            t.dsp = DspHistory.reset ∧ ImagesCleared s.mem t.mem)
        ∧ (s.cfg.bandRange[i] = { lo := w.extractLsb' 0 10, hi := w.extractLsb' 16 10 } → t.dsp = s.dsp ∧ t.mem = s.mem))

/-- R108, R111, R115, R120 to R123, R125, R134, R202: each of these registers stores what is written to it, reads it back
with its reserved bits 0, and leaves every other register as it was; SUS_N stores 1 for 0. That the write's bus response carries
data 0 is the model's choice (notes/assumptions/12.md). -/
def Obligations.RegistersStore : Prop :=
  ∀ (s : State) (w : Word), s.pending = none →
    (∀ r ∈ plainRegisters,
      ∃ t, hostAccess (.write (BitVec.ofNat 13 r.1) .word w) s = .next t
        ∧ t.readAt r.1 = w &&& r.2
        ∧ (∀ a, a < 0x2000 → a % 4 = 0 → a ≠ r.1 → t.readAt a = s.readAt a)
        ∧ t = { s.answered 0#32 false with
                  cfg := t.cfg, irqEnable := t.irqEnable, staleTimeout := t.staleTimeout, txCmd := t.txCmd })
    ∧ (∃ t, hostAccess (.write 0x150#13 .word w) s = .next t
        ∧ t.readAt 0x150 = (if w &&& 0xFF#32 = 0#32 then 1#32 else w &&& 0xFF#32)
        ∧ t = { s.answered 0#32 false with cfg := { s.cfg with susN := t.cfg.susN } })

/-- R126, R130, R133, R202, R203: a word of PCLASS_LUT, TX_RAW or BIN RAM reads back what was written to it, and no other
byte of memory changes; entries of BIN RAM at `N_BINS` or above read 0 and ignore writes. That the write's bus response
carries data 0 is the model's choice (notes/assumptions/12.md). -/
def Obligations.WindowsStore : Prop :=
  ∀ (s : State) (w : Word) (base n k : Nat), s.pending = none →
    (base, n) ∈ [(0x400, 128), (0x880, 17), (0x1000, 1024)] → k < n →
    ∃ t, hostAccess (.write (BitVec.ofNat 13 (base + 4 * k)) .word w) s = .next t
      ∧ t = { s.answered 0#32 false with mem := t.mem }
      ∧ (base = 0x1000 ∧ s.param.nBins ≤ k → t.mem = s.mem ∧ t.readAt (base + 4 * k) = 0x00000000#32)
      ∧ (¬ (base = 0x1000 ∧ s.param.nBins ≤ k) →
          t.readAt (base + 4 * k) = w
          ∧ ∀ a, ¬ (base + 4 * k ≤ a ∧ a < base + 4 * k + 4) → memRead t.mem a = memRead s.mem a)

/-- R100, R134, R202: a reserved offset reads 0, and a write to it or to a read-only register changes nothing. That
the write's bus response carries data 0 is the model's choice (notes/assumptions/12.md). -/
def Obligations.ReservedAndReadOnly : Prop :=
  ∀ (s : State) (a : BitVec 13) (w : Word), a.toNat % 4 = 0 →
    (reservedSpace a.toNat = true → s.readAt a.toNat = 0x00000000#32)
    ∧ (reservedSpace a.toNat = true ∨ readOnlySpace a.toNat = true →
        hostAccess (.write a .word w) s = .next (s.answered 0#32 false))

/-- R107, R809, R810: `irq` is high exactly while an enabled event bit is set; a write of 1 clears an event bit that no
hardware event set in the same cycle, and changes nothing else. That R107's "same step" is the clock cycle for every event
is deduced (R809 says it of a completion; notes/assumptions/7.md), and that the write's bus response carries data 0 is the
model's choice (notes/assumptions/12.md). -/
def Obligations.InterruptOutput : Prop :=
  ∀ (s : State) (w : Word),
    (s.irqOut = true ↔ ∃ i : Fin 7, s.irqStatus.getLsbD i.val = true ∧ s.irqEnable.getLsbD i.val = true)
    ∧ ∃ t, hostAccess (.write 0x014#13 .word w) s = .next t
      ∧ t = { s.answered 0#32 false with irqStatus := t.irqStatus }
      ∧ ∀ i : Fin 7, t.irqStatus.getLsbD i.val =
          (s.irqStatus.getLsbD i.val && (!w.getLsbD i.val || s.now.irqRaised.getLsbD i.val))

/-- R221, R656: with TX_SINK = 0 a cycle with `tx_ready = 1` takes the oldest byte of a non-empty FIFO to `tx`; with
TX_SINK = 1, or an empty FIFO, nothing leaves. -/
def Obligations.TxPortDrains : Prop :=
  ∀ s : State, s.cycleNow = { Cycle.quiet with txReady := true } →
    (∀ b rest, s.ctrl.txSink = false → s.txFifo = b :: rest →
      s.txData = some b
      ∧ step s = .next { s with
          script := s.script.tail, clk := s.clk + 1, now := CycleNotes.none, txFifo := rest
          port := { bus := none, tx := some b } })
    ∧ ((s.ctrl.txSink = true ∨ s.txFifo = []) →
      s.txData = none
      ∧ step s = .next { s with
          script := s.script.tail, clk := s.clk + 1, now := CycleNotes.none, port := PortOut.none })

/-- R101 to R103, R105 to R112, R114 to R133, R203: what the host reads: which field of the state each control, status,
count, configuration and debug register shows, with its reserved bits 0, and the bytes of memory each data window shows. -/
def Obligations.StatusAndDebugRegisters : Prop :=
  ∀ s : State,
    s.readAt 0x000 = 0x4F4D5207#32 ∧ s.readAt 0x010 = 0x00000000#32 ∧ s.readAt 0x030 = 0x00000000#32
    ∧ (s.readAt 0x004).extractLsb' 11 5 = 0#5
    ∧ (s.param.nBins < 2048 → ((s.readAt 0x004).extractLsb' 0 11).toNat = s.param.nBins)
    ∧ (s.param.txqDepth < 65536 → ((s.readAt 0x004).extractLsb' 16 16).toNat = s.param.txqDepth)
    ∧ ((s.readAt 0x008).getLsbD 0 = s.ctrl.rxEn ∧ (s.readAt 0x008).getLsbD 1 = s.ctrl.autoFeat
      ∧ (s.readAt 0x008).getLsbD 2 = s.ctrl.autoAux ∧ (s.readAt 0x008).getLsbD 3 = s.ctrl.rxSrc
      ∧ (s.readAt 0x008).getLsbD 4 = s.ctrl.txSink ∧ (s.readAt 0x008).extractLsb' 5 3 = 0#3
      ∧ (s.readAt 0x008).extractLsb' 8 4 = s.ctrl.nbands ∧ (s.readAt 0x008).extractLsb' 12 20 = 0#20)
    ∧ [0x014, 0x018].map s.readAt = [0#25 ++ s.irqStatus, 0#25 ++ s.irqEnable]
    ∧ [0x01C, 0x020].map s.readAt = [s.cmdErr, s.decErr]
    ∧ s.readAt 0x024 = 0x0000#16 ++ s.staleTimeout
    ∧ s.readAt 0x034 = 0x00#8 ++ s.txCmd.brightness ++ s.txCmd.pattern ++ s.txCmd.mode
    ∧ [0x100, 0x104, 0x108, 0x10C, 0x110, 0x114, 0x128, 0x12C, 0x130, 0x134, 0x138, 0x13C, 0x140].map s.readAt
        = [s.cfg.tun.calGain, s.cfg.tun.alphaBand, s.cfg.tun.alphaChroma, s.cfg.tun.betaFloor, s.cfg.tun.minPeak,
            s.cfg.tun.confRatio, s.cfg.tun.vocScale, s.cfg.tun.vocMargin, s.cfg.tun.gateScale, s.cfg.tun.attack,
            s.cfg.tun.releaseCoef, s.cfg.tun.onsetThr, s.cfg.tun.slopeThr]
    ∧ [0x154, 0x158, 0x15C, 0x160, 0x164, 0x168, 0x16C, 0x170, 0x174, 0x178, 0x17C, 0x180].map s.readAt
        = [s.cfg.tun.susEngage, s.cfg.tun.susRelease, s.cfg.tun.binHz, s.cfg.tun.kPk, s.cfg.tun.visScale, s.cfg.tun.kVis,
            s.cfg.tun.deltaGain, s.cfg.tun.fluxScale, s.cfg.tun.gammaPk, s.cfg.tun.pkRatio, s.cfg.tun.pkFloor,
            s.cfg.tun.silenceThr]
    ∧ [0x118, 0x148, 0x14C, 0x150].map s.readAt
        = [0#24 ++ s.cfg.chFloor, 0#24 ++ s.cfg.noteMinStr, 0#24 ++ s.cfg.postWin, 0#24 ++ s.cfg.susN]
    ∧ s.readAt 0x144 = 0x0000#16 ++ s.cfg.refract
    ∧ [0x11C, 0x120, 0x124].map s.readAt
        = [s.cfg.chRange, s.cfg.vocRange, s.cfg.pkRange].map (fun r => 0#6 ++ r.hi ++ 0#6 ++ r.lo)
    ∧ [0x184, 0x188, 0x18C].map s.readAt = [0#20 ++ s.cfg.bassMask, 0#20 ++ s.cfg.midMask, 0#20 ++ s.cfg.trebMask]
    ∧ (∀ i : Fin 12, s.readAt (0x1C0 + 4 * i.val) = 0#6 ++ s.cfg.bandRange[i].hi ++ 0#6 ++ s.cfg.bandRange[i].lo
        ∧ s.readAt (0x200 + 4 * i.val) = s.cfg.tilt[i])
    ∧ (∀ win ∈ [(0x400, 128), (0x600, 17), (0x680, 9), (0x700, 17), (0x780, 17), (0x800, 9), (0x880, 17)],
        ∀ k j : Nat, k < win.2 → j < 4 →
          (s.readAt (win.1 + 4 * k)).extractLsb' (8 * j) 8 = memRead s.mem (win.1 + 4 * k + j))
    ∧ (∀ k j : Nat, k < 1024 → j < 4 →
        (s.readAt (0x1000 + 4 * k)).extractLsb' (8 * j) 8
          = if k < s.param.nBins then memRead s.mem (0x1000 + 4 * k + j) else 0x00#8)
    ∧ (s.readAt 0x00C).getLsbD 0 = s.pending.isSome ∧ (s.readAt 0x00C).getLsbD 1 = (s.dec.dstate == .accumulating)
    ∧ (s.readAt 0x00C).getLsbD 2 = s.txFifo.isEmpty
    ∧ (s.readAt 0x00C).extractLsb' 3 5 = 0#5 ∧ (s.readAt 0x00C).extractLsb' 15 17 = 0#17
    ∧ (s.dec.blen ≤ 75 → ((s.readAt 0x00C).extractLsb' 8 7).toNat = s.dec.blen)
    ∧ (s.txFifo.length < 65536 → (s.readAt 0x028).toNat = s.txFifo.length)
    ∧ s.readAt 0x038 = 0x00#8 ++ s.seqTx.aux ++ s.seqTx.command ++ s.seqTx.feature
    ∧ s.readAt 0x03C = 0x00#8 ++ s.seqRx.aux ++ s.seqRx.command ++ s.seqRx.feature
    ∧ s.readAt 0x040 = s.tickCnt
    ∧ [0x044, 0x048, 0x04C, 0x050, 0x054, 0x058].map s.readAt
        = [s.cnt.rxOk, s.cnt.lenErr, s.cnt.frameErr, s.cnt.crcErr, s.cnt.stale, s.cnt.txDrop]
    ∧ (∀ i : Fin 12, s.readAt (0x900 + 4 * i.val) = s.dsp.chSm[i] ∧ s.readAt (0x930 + 4 * i.val) = s.dsp.vis[i])
    ∧ [0x960, 0x964, 0x968].map s.readAt = [s.dsp.gavg, s.dsp.nfloor, s.dsp.env]
    ∧ s.readAt 0x96C = 0x0000#16 ++ s.dsp.sinceOnset ∧ s.readAt 0x970 = 0x0000#16 ++ s.dsp.nstr ++ s.dsp.note
    ∧ (s.readAt 0x974).extractLsb' 0 24 = s.dsp.susPc ++ s.dsp.candCnt ++ s.dsp.candPc
    ∧ (s.readAt 0x974).getLsbD 24 = s.dsp.susActive ∧ (s.readAt 0x974).getLsbD 25 = s.dsp.floorSeeded
    ∧ (s.readAt 0x974).extractLsb' 26 6 = 0#6
    ∧ (s.readAt 0x978).getLsbD 0 = (s.dec.dstate == .accumulating) ∧ (s.readAt 0x978).extractLsb' 1 7 = 0#7
    ∧ (s.dec.blen ≤ 75 → ((s.readAt 0x978).extractLsb' 8 7).toNat = s.dec.blen)
    ∧ (s.readAt 0x978).getLsbD 15 = false ∧ (s.readAt 0x978).extractLsb' 16 16 = s.dec.staleCnt
    ∧ (s.dec.blen ≤ 75 → ∀ (w : Fin 19) (j : Fin 4),
        (s.readAt (0xA00 + 4 * w.val)).extractLsb' (8 * j.val) 8
          = if 4 * w.val + j.val < s.dec.blen then s.dec.dbuf.toList.getD (4 * w.val + j.val) 0x00#8 else 0x00#8)

/-! ## Numerics (00_scope.md section 6) -/

/-- R18, R20: each operator on finite operands gives the exact sum, difference, product, quotient or root rounded once, to
nearest, ties to even, with its sign (an exact zero sum is `-0.0` only of two negative terms), and an integer below 2^24
converts exactly. Below the operators: the rounding of a magnitude, its overflow from half an ulp above the largest finite
value on, a value strictly between two units, and the integer root. -/
def Obligations.RoundingIsNearest : Prop :=
  (∀ m k : Nat, froundMag m k false = 0x7F800000 ↔ (2 ^ 25 - 1) * 2 ^ (252 + k) ≤ m)
  ∧ (∀ (m k : Nat) (y : F32), froundMag m k false < 0x7F800000 → fIsFinite y = true →
      |((fmant (BitVec.ofNat 32 (froundMag m k false)) * 2 ^ k : Nat) : Int) - m| ≤ |((fmant y * 2 ^ k : Nat) : Int) - m|
      ∧ (|((fmant (BitVec.ofNat 32 (froundMag m k false)) * 2 ^ k : Nat) : Int) - m|
            = |((fmant y * 2 ^ k : Nat) : Int) - m| →
          fmant y ≠ fmant (BitVec.ofNat 32 (froundMag m k false)) → froundMag m k false % 2 = 0))
  ∧ (∀ m k : Nat, 1 ≤ k → froundMag m k true = froundMag (2 * m + 1) (k + 1) false)
  ∧ (∀ n : Nat, isqrt n * isqrt n ≤ n ∧ n < (isqrt n + 1) * (isqrt n + 1))
  ∧ (∀ a b : F32, fIsFinite a = true → fIsFinite b = true →
      RoundsTo (if unitsOf a + unitsOf b = 0 then fsign a && fsign b else decide (unitsOf a + unitsOf b < 0))
        |((unitsOf a + unitsOf b : Int) : ℝ)| (fadd a b)
      ∧ RoundsTo (if unitsOf a - unitsOf b = 0 then fsign a && !fsign b else decide (unitsOf a - unitsOf b < 0))
        |((unitsOf a - unitsOf b : Int) : ℝ)| (fsub a b)
      ∧ RoundsTo (fsign a != fsign b) ((fmant a : ℝ) * (fmant b : ℝ) / 2 ^ 149) (fmul a b)
      ∧ (fmagBits b ≠ 0 → RoundsTo (fsign a != fsign b) ((fmant a : ℝ) * 2 ^ 149 / (fmant b : ℝ)) (fdiv a b)))
  ∧ (∀ x : F32, fIsFinite x = true → fsign x = false →
      RoundsTo false (Real.sqrt ((fmant x : ℝ) * 2 ^ 149)) (fsqrt x))
  ∧ (∀ n : Nat, n < 2 ^ 24 →
      fIsFinite (f32OfNat n) = true ∧ fsign (f32OfNat n) = false ∧ fmant (f32OfNat n) = n * 2 ^ 149)

/-- R22, R23, R24: the conversions to bytes and to Hz: 0 for what is not above zero, saturation, and in between the exact
half-up rounding (q8, hz16) or truncation (str8) of the binary32 value. A finite value is `fmant` units of 2^-149. -/
def Obligations.Conversions : Prop :=
  ∀ x : F32,
    (fgt x 0x00000000#32 = false → q8 x = 0#8 ∧ hz16 x = 0#16)
    ∧ (fgt x 0x00000000#32 = true → fge (fmul x 0x437F0000#32) 0x437F0000#32 = true → q8 x = 255#8)
    ∧ (fgt x 0x00000000#32 = true → fge (fmul x 0x437F0000#32) 0x437F0000#32 = false →
        (q8 x).toNat * 2 ^ 150 ≤ 2 * fmant (fmul x 0x437F0000#32) + 2 ^ 149
        ∧ 2 * fmant (fmul x 0x437F0000#32) + 2 ^ 149 < ((q8 x).toNat + 1) * 2 ^ 150)
    ∧ (fge x 0x477FFF00#32 = true → hz16 x = 65535#16)
    ∧ (fgt x 0x00000000#32 = true → fge x 0x477FFF00#32 = false →
        (hz16 x).toNat * 2 ^ 150 ≤ 2 * fmant x + 2 ^ 149 ∧ 2 * fmant x + 2 ^ 149 < ((hz16 x).toNat + 1) * 2 ^ 150)
    ∧ (fgt (fmul (fsub x 0x3F800000#32) 0x42C80000#32) 0x00000000#32 = false → str8 x = 0#8)
    ∧ (fge (fmul (fsub x 0x3F800000#32) 0x42C80000#32) 0x437F0000#32 = true → str8 x = 255#8)
    ∧ (fgt (fmul (fsub x 0x3F800000#32) 0x42C80000#32) 0x00000000#32 = true →
        fge (fmul (fsub x 0x3F800000#32) 0x42C80000#32) 0x437F0000#32 = false →
        (str8 x).toNat * 2 ^ 149 ≤ fmant (fmul (fsub x 0x3F800000#32) 0x42C80000#32)
        ∧ fmant (fmul (fsub x 0x3F800000#32) 0x42C80000#32) < ((str8 x).toNat + 1) * 2 ^ 149)

/-- R18 to R21, R25: the special cases of the operators (NaN, infinities, zeros), the comparisons of all values, and the
helper functions `pos`, `clamp01`, `fmax` and `sanitize`. -/
def Obligations.SpecialValues : Prop :=
  (∀ x y : F32, fIsNaN x = true →
      fadd x y = 0x7FC00000#32 ∧ fadd y x = 0x7FC00000#32 ∧ fsub x y = 0x7FC00000#32 ∧ fsub y x = 0x7FC00000#32
      ∧ fmul x y = 0x7FC00000#32 ∧ fmul y x = 0x7FC00000#32
      ∧ fdiv x y = 0x7FC00000#32 ∧ fdiv y x = 0x7FC00000#32 ∧ fsqrt x = 0x7FC00000#32
      ∧ fgt x y = false ∧ fgt y x = false ∧ flt x y = false ∧ flt y x = false
      ∧ fge x y = false ∧ fge y x = false ∧ feq x y = false ∧ feq y x = false)
  ∧ (∀ x y : F32, fIsFinite x = true → fmagBits y = 0 →
      (fmagBits x ≠ 0 → fdiv x y = (if fsign x != fsign y then 0xFF800000#32 else 0x7F800000#32)
        ∧ (fsign x = true → fsqrt x = 0x7FC00000#32))
      ∧ (fmagBits x = 0 → fdiv x y = 0x7FC00000#32)
      ∧ fsqrt y = y)
  ∧ (∀ x y : F32, fIsFinite x = true → fIsInf y = true →
      fadd x y = y ∧ fadd y x = y ∧ fsub y x = y ∧ fsub x y = y ^^^ 0x80000000#32
      ∧ fdiv x y = (if fsign x != fsign y then 0x80000000#32 else 0x00000000#32)
      ∧ fdiv y x = (if fsign x != fsign y then 0xFF800000#32 else 0x7F800000#32)
      ∧ (fmagBits x ≠ 0 → fmul x y = (if fsign x != fsign y then 0xFF800000#32 else 0x7F800000#32)
        ∧ fmul y x = (if fsign x != fsign y then 0xFF800000#32 else 0x7F800000#32))
      ∧ (fmagBits x = 0 → fmul x y = 0x7FC00000#32 ∧ fmul y x = 0x7FC00000#32))
  ∧ (∀ x y : F32, fIsInf x = true → fIsInf y = true →
      fadd x y = (if fsign x = fsign y then x else 0x7FC00000#32)
      ∧ fsub x y = (if fsign x = fsign y then 0x7FC00000#32 else x)
      ∧ fmul x y = (if fsign x = fsign y then 0x7F800000#32 else 0xFF800000#32)
      ∧ fdiv x y = 0x7FC00000#32 ∧ fsqrt x = (if fsign x then 0x7FC00000#32 else x))
  ∧ (∀ x y : F32, fIsNaN x = false → fIsNaN y = false →
      (fgt x y = true ↔ unitsOf y < unitsOf x) ∧ (flt x y = true ↔ unitsOf x < unitsOf y)
      ∧ (fge x y = true ↔ unitsOf y ≤ unitsOf x) ∧ (feq x y = true ↔ unitsOf x = unitsOf y))
  ∧ (∀ x f : F32,
      (fgt x 0x00000000#32 = true → fpos x = x) ∧ (fgt x 0x00000000#32 = false → fpos x = 0x00000000#32)
      ∧ (fgt x f = true → ffloorAt x f = x) ∧ (fgt x f = false → ffloorAt x f = f))
  ∧ fdiv 0x00000000#32 0x00000000#32 = 0x7FC00000#32 ∧ fsqrt 0x80000000#32 = 0x80000000#32
  ∧ feq 0x80000000#32 0x00000000#32 = true ∧ fmul 0x7F800000#32 0x00000000#32 = 0x7FC00000#32
  ∧ fsub 0x7F800000#32 0x7F800000#32 = 0x7FC00000#32
  ∧ (∀ x : F32, inUnit (fclamp01 x) = true ∧ (fgt x 0x00000000#32 = false → fclamp01 x = 0x00000000#32)
      ∧ (inUnit x = true → fgt x 0x00000000#32 = true → fclamp01 x = x)
      ∧ (fgt x 0x3F800000#32 = true → fclamp01 x = 0x3F800000#32))
  ∧ (∀ x : F32, fIsFinite (sanitize x) = true ∧ fge (sanitize x) 0x00000000#32 = true
      ∧ (fIsFinite x = true → fgt x 0x00000000#32 = true → sanitize x = x)
      ∧ (¬ (fIsFinite x = true ∧ fgt x 0x00000000#32 = true) → sanitize x = 0x00000000#32))

/-! ## Fairness of the command engine (R12, R401) -/

/-- R12, R401: a pending command completes after some number of cycles that has no bound: with no more input to
come, the cycles up to its completion change nothing but the model's own clock, and then the completion step is taken
whole. And from every state that meets the decoder invariants, whatever inputs are still to come, the block reaches a state
with no command pending. It rests on weak fairness alone, as R12 says (notes/assumptions/3.md). -/
def Obligations.PendingCommandCompletes : Prop :=
  (∀ (s : State) (p : CmdWord), s.script = [] → s.pending = some p →
    ∃ n t, engineStep true { s with clk := s.clk + n + 1, now := CycleNotes.none, port := PortOut.none } = .next t
      ∧ t.pending = none ∧ t.irqStatus.getLsbD 0 = true ∧ Reaches (n + 1) s t)
  ∧ (∀ s : State, s.DecoderInv → ∃ k t, Reaches k s t ∧ t.script = [] ∧ t.pending = none)
end

