-- ==== Sys2Proof/Laws/State.lean ====
section
/-! SUPPORT. What each named update of the state does to each field, so that no proof unfolds a record update. -/

namespace Sys2Proof.Machine

section
variable (s : State)

/-! ### `State.raiseIrq` -/

@[simp] theorem raiseIrq_param (b : BitVec 7) : (s.raiseIrq b).param = s.param := rfl
@[simp] theorem raiseIrq_ctrl (b : BitVec 7) : (s.raiseIrq b).ctrl = s.ctrl := rfl
@[simp] theorem raiseIrq_irqStatus (b : BitVec 7) : (s.raiseIrq b).irqStatus = s.irqStatus ||| b := rfl
@[simp] theorem raiseIrq_irqEnable (b : BitVec 7) : (s.raiseIrq b).irqEnable = s.irqEnable := rfl
@[simp] theorem raiseIrq_cmdErr (b : BitVec 7) : (s.raiseIrq b).cmdErr = s.cmdErr := rfl
@[simp] theorem raiseIrq_decErr (b : BitVec 7) : (s.raiseIrq b).decErr = s.decErr := rfl
@[simp] theorem raiseIrq_staleTimeout (b : BitVec 7) : (s.raiseIrq b).staleTimeout = s.staleTimeout := rfl
@[simp] theorem raiseIrq_txCmd (b : BitVec 7) : (s.raiseIrq b).txCmd = s.txCmd := rfl
@[simp] theorem raiseIrq_seqTx (b : BitVec 7) : (s.raiseIrq b).seqTx = s.seqTx := rfl
@[simp] theorem raiseIrq_seqRx (b : BitVec 7) : (s.raiseIrq b).seqRx = s.seqRx := rfl
@[simp] theorem raiseIrq_tickCnt (b : BitVec 7) : (s.raiseIrq b).tickCnt = s.tickCnt := rfl
@[simp] theorem raiseIrq_cnt (b : BitVec 7) : (s.raiseIrq b).cnt = s.cnt := rfl
@[simp] theorem raiseIrq_cfg (b : BitVec 7) : (s.raiseIrq b).cfg = s.cfg := rfl
@[simp] theorem raiseIrq_mem (b : BitVec 7) : (s.raiseIrq b).mem = s.mem := rfl
@[simp] theorem raiseIrq_dsp (b : BitVec 7) : (s.raiseIrq b).dsp = s.dsp := rfl
@[simp] theorem raiseIrq_dec (b : BitVec 7) : (s.raiseIrq b).dec = s.dec := rfl
@[simp] theorem raiseIrq_txFifo (b : BitVec 7) : (s.raiseIrq b).txFifo = s.txFifo := rfl
@[simp] theorem raiseIrq_pending (b : BitVec 7) : (s.raiseIrq b).pending = s.pending := rfl
@[simp] theorem raiseIrq_script (b : BitVec 7) : (s.raiseIrq b).script = s.script := rfl
@[simp] theorem raiseIrq_clk (b : BitVec 7) : (s.raiseIrq b).clk = s.clk := rfl
@[simp] theorem raiseIrq_now (b : BitVec 7) : (s.raiseIrq b).now = { s.now with irqRaised := s.now.irqRaised ||| b } := rfl
@[simp] theorem raiseIrq_port (b : BitVec 7) : (s.raiseIrq b).port = s.port := rfl

/-! ### `State.clearIrq` -/

@[simp] theorem clearIrq_param (b : BitVec 7) : (s.clearIrq b).param = s.param := rfl
@[simp] theorem clearIrq_ctrl (b : BitVec 7) : (s.clearIrq b).ctrl = s.ctrl := rfl
@[simp] theorem clearIrq_irqStatus (b : BitVec 7) : (s.clearIrq b).irqStatus = (s.irqStatus &&& ~~~b) ||| (s.irqStatus &&& s.now.irqRaised) := rfl
@[simp] theorem clearIrq_irqEnable (b : BitVec 7) : (s.clearIrq b).irqEnable = s.irqEnable := rfl
@[simp] theorem clearIrq_cmdErr (b : BitVec 7) : (s.clearIrq b).cmdErr = s.cmdErr := rfl
@[simp] theorem clearIrq_decErr (b : BitVec 7) : (s.clearIrq b).decErr = s.decErr := rfl
@[simp] theorem clearIrq_staleTimeout (b : BitVec 7) : (s.clearIrq b).staleTimeout = s.staleTimeout := rfl
@[simp] theorem clearIrq_txCmd (b : BitVec 7) : (s.clearIrq b).txCmd = s.txCmd := rfl
@[simp] theorem clearIrq_seqTx (b : BitVec 7) : (s.clearIrq b).seqTx = s.seqTx := rfl
@[simp] theorem clearIrq_seqRx (b : BitVec 7) : (s.clearIrq b).seqRx = s.seqRx := rfl
@[simp] theorem clearIrq_tickCnt (b : BitVec 7) : (s.clearIrq b).tickCnt = s.tickCnt := rfl
@[simp] theorem clearIrq_cnt (b : BitVec 7) : (s.clearIrq b).cnt = s.cnt := rfl
@[simp] theorem clearIrq_cfg (b : BitVec 7) : (s.clearIrq b).cfg = s.cfg := rfl
@[simp] theorem clearIrq_mem (b : BitVec 7) : (s.clearIrq b).mem = s.mem := rfl
@[simp] theorem clearIrq_dsp (b : BitVec 7) : (s.clearIrq b).dsp = s.dsp := rfl
@[simp] theorem clearIrq_dec (b : BitVec 7) : (s.clearIrq b).dec = s.dec := rfl
@[simp] theorem clearIrq_txFifo (b : BitVec 7) : (s.clearIrq b).txFifo = s.txFifo := rfl
@[simp] theorem clearIrq_pending (b : BitVec 7) : (s.clearIrq b).pending = s.pending := rfl
@[simp] theorem clearIrq_script (b : BitVec 7) : (s.clearIrq b).script = s.script := rfl
@[simp] theorem clearIrq_clk (b : BitVec 7) : (s.clearIrq b).clk = s.clk := rfl
@[simp] theorem clearIrq_now (b : BitVec 7) : (s.clearIrq b).now = s.now := rfl
@[simp] theorem clearIrq_port (b : BitVec 7) : (s.clearIrq b).port = s.port := rfl

/-! ### `State.writeMem` -/

@[simp] theorem writeMem_param (a : Nat) (bs : List Byte) : (s.writeMem a bs).param = s.param := rfl
@[simp] theorem writeMem_ctrl (a : Nat) (bs : List Byte) : (s.writeMem a bs).ctrl = s.ctrl := rfl
@[simp] theorem writeMem_irqStatus (a : Nat) (bs : List Byte) : (s.writeMem a bs).irqStatus = s.irqStatus := rfl
@[simp] theorem writeMem_irqEnable (a : Nat) (bs : List Byte) : (s.writeMem a bs).irqEnable = s.irqEnable := rfl
@[simp] theorem writeMem_cmdErr (a : Nat) (bs : List Byte) : (s.writeMem a bs).cmdErr = s.cmdErr := rfl
@[simp] theorem writeMem_decErr (a : Nat) (bs : List Byte) : (s.writeMem a bs).decErr = s.decErr := rfl
@[simp] theorem writeMem_staleTimeout (a : Nat) (bs : List Byte) : (s.writeMem a bs).staleTimeout = s.staleTimeout := rfl
@[simp] theorem writeMem_txCmd (a : Nat) (bs : List Byte) : (s.writeMem a bs).txCmd = s.txCmd := rfl
@[simp] theorem writeMem_seqTx (a : Nat) (bs : List Byte) : (s.writeMem a bs).seqTx = s.seqTx := rfl
@[simp] theorem writeMem_seqRx (a : Nat) (bs : List Byte) : (s.writeMem a bs).seqRx = s.seqRx := rfl
@[simp] theorem writeMem_tickCnt (a : Nat) (bs : List Byte) : (s.writeMem a bs).tickCnt = s.tickCnt := rfl
@[simp] theorem writeMem_cnt (a : Nat) (bs : List Byte) : (s.writeMem a bs).cnt = s.cnt := rfl
@[simp] theorem writeMem_cfg (a : Nat) (bs : List Byte) : (s.writeMem a bs).cfg = s.cfg := rfl
@[simp] theorem writeMem_mem (a : Nat) (bs : List Byte) : (s.writeMem a bs).mem = memWriteBytes s.mem a bs := rfl
@[simp] theorem writeMem_dsp (a : Nat) (bs : List Byte) : (s.writeMem a bs).dsp = s.dsp := rfl
@[simp] theorem writeMem_dec (a : Nat) (bs : List Byte) : (s.writeMem a bs).dec = s.dec := rfl
@[simp] theorem writeMem_txFifo (a : Nat) (bs : List Byte) : (s.writeMem a bs).txFifo = s.txFifo := rfl
@[simp] theorem writeMem_pending (a : Nat) (bs : List Byte) : (s.writeMem a bs).pending = s.pending := rfl
@[simp] theorem writeMem_script (a : Nat) (bs : List Byte) : (s.writeMem a bs).script = s.script := rfl
@[simp] theorem writeMem_clk (a : Nat) (bs : List Byte) : (s.writeMem a bs).clk = s.clk := rfl
@[simp] theorem writeMem_now (a : Nat) (bs : List Byte) : (s.writeMem a bs).now = s.now := rfl
@[simp] theorem writeMem_port (a : Nat) (bs : List Byte) : (s.writeMem a bs).port = s.port := rfl

/-! ### `State.raiseCmdError` -/

@[simp] theorem raiseCmdError_param (c : CmdErrCode) (o d : Byte) : (s.raiseCmdError c o d).param = s.param := rfl
@[simp] theorem raiseCmdError_ctrl (c : CmdErrCode) (o d : Byte) : (s.raiseCmdError c o d).ctrl = s.ctrl := rfl
@[simp] theorem raiseCmdError_irqStatus (c : CmdErrCode) (o d : Byte) : (s.raiseCmdError c o d).irqStatus = s.irqStatus ||| irqCmdErr := rfl
@[simp] theorem raiseCmdError_irqEnable (c : CmdErrCode) (o d : Byte) : (s.raiseCmdError c o d).irqEnable = s.irqEnable := rfl
@[simp] theorem raiseCmdError_cmdErr (c : CmdErrCode) (o d : Byte) : (s.raiseCmdError c o d).cmdErr = cmdErrWord c o d := rfl
@[simp] theorem raiseCmdError_decErr (c : CmdErrCode) (o d : Byte) : (s.raiseCmdError c o d).decErr = s.decErr := rfl
@[simp] theorem raiseCmdError_staleTimeout (c : CmdErrCode) (o d : Byte) : (s.raiseCmdError c o d).staleTimeout = s.staleTimeout := rfl
@[simp] theorem raiseCmdError_txCmd (c : CmdErrCode) (o d : Byte) : (s.raiseCmdError c o d).txCmd = s.txCmd := rfl
@[simp] theorem raiseCmdError_seqTx (c : CmdErrCode) (o d : Byte) : (s.raiseCmdError c o d).seqTx = s.seqTx := rfl
@[simp] theorem raiseCmdError_seqRx (c : CmdErrCode) (o d : Byte) : (s.raiseCmdError c o d).seqRx = s.seqRx := rfl
@[simp] theorem raiseCmdError_tickCnt (c : CmdErrCode) (o d : Byte) : (s.raiseCmdError c o d).tickCnt = s.tickCnt := rfl
@[simp] theorem raiseCmdError_cnt (c : CmdErrCode) (o d : Byte) : (s.raiseCmdError c o d).cnt = s.cnt := rfl
@[simp] theorem raiseCmdError_cfg (c : CmdErrCode) (o d : Byte) : (s.raiseCmdError c o d).cfg = s.cfg := rfl
@[simp] theorem raiseCmdError_mem (c : CmdErrCode) (o d : Byte) : (s.raiseCmdError c o d).mem = s.mem := rfl
@[simp] theorem raiseCmdError_dsp (c : CmdErrCode) (o d : Byte) : (s.raiseCmdError c o d).dsp = s.dsp := rfl
@[simp] theorem raiseCmdError_dec (c : CmdErrCode) (o d : Byte) : (s.raiseCmdError c o d).dec = s.dec := rfl
@[simp] theorem raiseCmdError_txFifo (c : CmdErrCode) (o d : Byte) : (s.raiseCmdError c o d).txFifo = s.txFifo := rfl
@[simp] theorem raiseCmdError_pending (c : CmdErrCode) (o d : Byte) : (s.raiseCmdError c o d).pending = s.pending := rfl
@[simp] theorem raiseCmdError_script (c : CmdErrCode) (o d : Byte) : (s.raiseCmdError c o d).script = s.script := rfl
@[simp] theorem raiseCmdError_clk (c : CmdErrCode) (o d : Byte) : (s.raiseCmdError c o d).clk = s.clk := rfl
@[simp] theorem raiseCmdError_now (c : CmdErrCode) (o d : Byte) : (s.raiseCmdError c o d).now = { s.now with irqRaised := s.now.irqRaised ||| irqCmdErr } := rfl
@[simp] theorem raiseCmdError_port (c : CmdErrCode) (o d : Byte) : (s.raiseCmdError c o d).port = s.port := rfl

/-! ### `State.raiseDecError` -/

@[simp] theorem raiseDecError_param (c : DecErrCode) : (s.raiseDecError c).param = s.param := rfl
@[simp] theorem raiseDecError_ctrl (c : DecErrCode) : (s.raiseDecError c).ctrl = s.ctrl := rfl
@[simp] theorem raiseDecError_irqStatus (c : DecErrCode) : (s.raiseDecError c).irqStatus = s.irqStatus ||| irqRxErr := rfl
@[simp] theorem raiseDecError_irqEnable (c : DecErrCode) : (s.raiseDecError c).irqEnable = s.irqEnable := rfl
@[simp] theorem raiseDecError_cmdErr (c : DecErrCode) : (s.raiseDecError c).cmdErr = s.cmdErr := rfl
@[simp] theorem raiseDecError_decErr (c : DecErrCode) : (s.raiseDecError c).decErr = decErrWord c s.dec := rfl
@[simp] theorem raiseDecError_staleTimeout (c : DecErrCode) : (s.raiseDecError c).staleTimeout = s.staleTimeout := rfl
@[simp] theorem raiseDecError_txCmd (c : DecErrCode) : (s.raiseDecError c).txCmd = s.txCmd := rfl
@[simp] theorem raiseDecError_seqTx (c : DecErrCode) : (s.raiseDecError c).seqTx = s.seqTx := rfl
@[simp] theorem raiseDecError_seqRx (c : DecErrCode) : (s.raiseDecError c).seqRx = s.seqRx := rfl
@[simp] theorem raiseDecError_tickCnt (c : DecErrCode) : (s.raiseDecError c).tickCnt = s.tickCnt := rfl
@[simp] theorem raiseDecError_cnt (c : DecErrCode) : (s.raiseDecError c).cnt = s.cnt.bumpDec c := rfl
@[simp] theorem raiseDecError_cfg (c : DecErrCode) : (s.raiseDecError c).cfg = s.cfg := rfl
@[simp] theorem raiseDecError_mem (c : DecErrCode) : (s.raiseDecError c).mem = s.mem := rfl
@[simp] theorem raiseDecError_dsp (c : DecErrCode) : (s.raiseDecError c).dsp = s.dsp := rfl
@[simp] theorem raiseDecError_dec (c : DecErrCode) : (s.raiseDecError c).dec = s.dec := rfl
@[simp] theorem raiseDecError_txFifo (c : DecErrCode) : (s.raiseDecError c).txFifo = s.txFifo := rfl
@[simp] theorem raiseDecError_pending (c : DecErrCode) : (s.raiseDecError c).pending = s.pending := rfl
@[simp] theorem raiseDecError_script (c : DecErrCode) : (s.raiseDecError c).script = s.script := rfl
@[simp] theorem raiseDecError_clk (c : DecErrCode) : (s.raiseDecError c).clk = s.clk := rfl
@[simp] theorem raiseDecError_now (c : DecErrCode) : (s.raiseDecError c).now = { s.now with irqRaised := s.now.irqRaised ||| irqRxErr } := rfl
@[simp] theorem raiseDecError_port (c : DecErrCode) : (s.raiseDecError c).port = s.port := rfl

/-! ### `State.finishCommand` -/

@[simp] theorem finishCommand_param : (s.finishCommand).param = s.param := rfl
@[simp] theorem finishCommand_ctrl : (s.finishCommand).ctrl = s.ctrl := rfl
@[simp] theorem finishCommand_irqStatus : (s.finishCommand).irqStatus = s.irqStatus ||| irqCmdDone := rfl
@[simp] theorem finishCommand_irqEnable : (s.finishCommand).irqEnable = s.irqEnable := rfl
@[simp] theorem finishCommand_cmdErr : (s.finishCommand).cmdErr = s.cmdErr := rfl
@[simp] theorem finishCommand_decErr : (s.finishCommand).decErr = s.decErr := rfl
@[simp] theorem finishCommand_staleTimeout : (s.finishCommand).staleTimeout = s.staleTimeout := rfl
@[simp] theorem finishCommand_txCmd : (s.finishCommand).txCmd = s.txCmd := rfl
@[simp] theorem finishCommand_seqTx : (s.finishCommand).seqTx = s.seqTx := rfl
@[simp] theorem finishCommand_seqRx : (s.finishCommand).seqRx = s.seqRx := rfl
@[simp] theorem finishCommand_tickCnt : (s.finishCommand).tickCnt = s.tickCnt := rfl
@[simp] theorem finishCommand_cnt : (s.finishCommand).cnt = s.cnt := rfl
@[simp] theorem finishCommand_cfg : (s.finishCommand).cfg = s.cfg := rfl
@[simp] theorem finishCommand_mem : (s.finishCommand).mem = s.mem := rfl
@[simp] theorem finishCommand_dsp : (s.finishCommand).dsp = s.dsp := rfl
@[simp] theorem finishCommand_dec : (s.finishCommand).dec = s.dec := rfl
@[simp] theorem finishCommand_txFifo : (s.finishCommand).txFifo = s.txFifo := rfl
@[simp] theorem finishCommand_pending : (s.finishCommand).pending = none := rfl
@[simp] theorem finishCommand_script : (s.finishCommand).script = s.script := rfl
@[simp] theorem finishCommand_clk : (s.finishCommand).clk = s.clk := rfl
@[simp] theorem finishCommand_now : (s.finishCommand).now = { s.now with irqRaised := s.now.irqRaised ||| irqCmdDone } := rfl
@[simp] theorem finishCommand_port : (s.finishCommand).port = s.port := rfl

/-! ### `State.clearDsp` -/

@[simp] theorem clearDsp_param : (s.clearDsp).param = s.param := by simp only [State.clearDsp]
@[simp] theorem clearDsp_ctrl : (s.clearDsp).ctrl = s.ctrl := by simp only [State.clearDsp]
@[simp] theorem clearDsp_irqStatus : (s.clearDsp).irqStatus = s.irqStatus := by simp only [State.clearDsp]
@[simp] theorem clearDsp_irqEnable : (s.clearDsp).irqEnable = s.irqEnable := by simp only [State.clearDsp]
@[simp] theorem clearDsp_cmdErr : (s.clearDsp).cmdErr = s.cmdErr := by simp only [State.clearDsp]
@[simp] theorem clearDsp_decErr : (s.clearDsp).decErr = s.decErr := by simp only [State.clearDsp]
@[simp] theorem clearDsp_staleTimeout : (s.clearDsp).staleTimeout = s.staleTimeout := by simp only [State.clearDsp]
@[simp] theorem clearDsp_txCmd : (s.clearDsp).txCmd = s.txCmd := by simp only [State.clearDsp]
@[simp] theorem clearDsp_seqTx : (s.clearDsp).seqTx = s.seqTx := by simp only [State.clearDsp]
@[simp] theorem clearDsp_seqRx : (s.clearDsp).seqRx = s.seqRx := by simp only [State.clearDsp]
@[simp] theorem clearDsp_tickCnt : (s.clearDsp).tickCnt = s.tickCnt := by simp only [State.clearDsp]
@[simp] theorem clearDsp_cnt : (s.clearDsp).cnt = s.cnt := by simp only [State.clearDsp]
@[simp] theorem clearDsp_cfg : (s.clearDsp).cfg = s.cfg := by simp only [State.clearDsp]
@[simp] theorem clearDsp_mem : (s.clearDsp).mem = resetImages s.mem := by simp only [State.clearDsp]
@[simp] theorem clearDsp_dsp : (s.clearDsp).dsp = DspHistory.reset := by simp only [State.clearDsp]
@[simp] theorem clearDsp_dec : (s.clearDsp).dec = s.dec := by simp only [State.clearDsp]
@[simp] theorem clearDsp_txFifo : (s.clearDsp).txFifo = s.txFifo := by simp only [State.clearDsp]
@[simp] theorem clearDsp_pending : (s.clearDsp).pending = s.pending := by simp only [State.clearDsp]
@[simp] theorem clearDsp_script : (s.clearDsp).script = s.script := by simp only [State.clearDsp]
@[simp] theorem clearDsp_clk : (s.clearDsp).clk = s.clk := by simp only [State.clearDsp]
@[simp] theorem clearDsp_now : (s.clearDsp).now = s.now := by simp only [State.clearDsp]
@[simp] theorem clearDsp_port : (s.clearDsp).port = s.port := by simp only [State.clearDsp]

/-! ### `State.popTx` -/

@[simp] theorem popTx_param : (s.popTx).param = s.param := rfl
@[simp] theorem popTx_ctrl : (s.popTx).ctrl = s.ctrl := rfl
@[simp] theorem popTx_irqStatus : (s.popTx).irqStatus = s.irqStatus := rfl
@[simp] theorem popTx_irqEnable : (s.popTx).irqEnable = s.irqEnable := rfl
@[simp] theorem popTx_cmdErr : (s.popTx).cmdErr = s.cmdErr := rfl
@[simp] theorem popTx_decErr : (s.popTx).decErr = s.decErr := rfl
@[simp] theorem popTx_staleTimeout : (s.popTx).staleTimeout = s.staleTimeout := rfl
@[simp] theorem popTx_txCmd : (s.popTx).txCmd = s.txCmd := rfl
@[simp] theorem popTx_seqTx : (s.popTx).seqTx = s.seqTx := rfl
@[simp] theorem popTx_seqRx : (s.popTx).seqRx = s.seqRx := rfl
@[simp] theorem popTx_tickCnt : (s.popTx).tickCnt = s.tickCnt := rfl
@[simp] theorem popTx_cnt : (s.popTx).cnt = s.cnt := rfl
@[simp] theorem popTx_cfg : (s.popTx).cfg = s.cfg := rfl
@[simp] theorem popTx_mem : (s.popTx).mem = s.mem := rfl
@[simp] theorem popTx_dsp : (s.popTx).dsp = s.dsp := rfl
@[simp] theorem popTx_dec : (s.popTx).dec = s.dec := rfl
@[simp] theorem popTx_txFifo : (s.popTx).txFifo = s.txFifo.tail := rfl
@[simp] theorem popTx_pending : (s.popTx).pending = s.pending := rfl
@[simp] theorem popTx_script : (s.popTx).script = s.script := rfl
@[simp] theorem popTx_clk : (s.popTx).clk = s.clk := rfl
@[simp] theorem popTx_now : (s.popTx).now = s.now := rfl
@[simp] theorem popTx_port : (s.popTx).port = s.port := rfl

/-! ### `State.resync` -/

@[simp] theorem resync_param : (s.resync).param = s.param := rfl
@[simp] theorem resync_ctrl : (s.resync).ctrl = s.ctrl := rfl
@[simp] theorem resync_irqStatus : (s.resync).irqStatus = s.irqStatus := rfl
@[simp] theorem resync_irqEnable : (s.resync).irqEnable = s.irqEnable := rfl
@[simp] theorem resync_cmdErr : (s.resync).cmdErr = s.cmdErr := rfl
@[simp] theorem resync_decErr : (s.resync).decErr = s.decErr := rfl
@[simp] theorem resync_staleTimeout : (s.resync).staleTimeout = s.staleTimeout := rfl
@[simp] theorem resync_txCmd : (s.resync).txCmd = s.txCmd := rfl
@[simp] theorem resync_seqTx : (s.resync).seqTx = s.seqTx := rfl
@[simp] theorem resync_seqRx : (s.resync).seqRx = s.seqRx := rfl
@[simp] theorem resync_tickCnt : (s.resync).tickCnt = s.tickCnt := rfl
@[simp] theorem resync_cnt : (s.resync).cnt = s.cnt := rfl
@[simp] theorem resync_cfg : (s.resync).cfg = s.cfg := rfl
@[simp] theorem resync_mem : (s.resync).mem = s.mem := rfl
@[simp] theorem resync_dsp : (s.resync).dsp = s.dsp := rfl
@[simp] theorem resync_dec : (s.resync).dec = s.dec.withBytes (resyncKeep s.dec.bytes) := rfl
@[simp] theorem resync_txFifo : (s.resync).txFifo = s.txFifo := rfl
@[simp] theorem resync_pending : (s.resync).pending = s.pending := rfl
@[simp] theorem resync_script : (s.resync).script = s.script := rfl
@[simp] theorem resync_clk : (s.resync).clk = s.clk := rfl
@[simp] theorem resync_now : (s.resync).now = s.now := rfl
@[simp] theorem resync_port : (s.resync).port = s.port := rfl

/-! ### `State.clearBuffer` -/

@[simp] theorem clearBuffer_param : (s.clearBuffer).param = s.param := rfl
@[simp] theorem clearBuffer_ctrl : (s.clearBuffer).ctrl = s.ctrl := rfl
@[simp] theorem clearBuffer_irqStatus : (s.clearBuffer).irqStatus = s.irqStatus := rfl
@[simp] theorem clearBuffer_irqEnable : (s.clearBuffer).irqEnable = s.irqEnable := rfl
@[simp] theorem clearBuffer_cmdErr : (s.clearBuffer).cmdErr = s.cmdErr := rfl
@[simp] theorem clearBuffer_decErr : (s.clearBuffer).decErr = s.decErr := rfl
@[simp] theorem clearBuffer_staleTimeout : (s.clearBuffer).staleTimeout = s.staleTimeout := rfl
@[simp] theorem clearBuffer_txCmd : (s.clearBuffer).txCmd = s.txCmd := rfl
@[simp] theorem clearBuffer_seqTx : (s.clearBuffer).seqTx = s.seqTx := rfl
@[simp] theorem clearBuffer_seqRx : (s.clearBuffer).seqRx = s.seqRx := rfl
@[simp] theorem clearBuffer_tickCnt : (s.clearBuffer).tickCnt = s.tickCnt := rfl
@[simp] theorem clearBuffer_cnt : (s.clearBuffer).cnt = s.cnt := rfl
@[simp] theorem clearBuffer_cfg : (s.clearBuffer).cfg = s.cfg := rfl
@[simp] theorem clearBuffer_mem : (s.clearBuffer).mem = s.mem := rfl
@[simp] theorem clearBuffer_dsp : (s.clearBuffer).dsp = s.dsp := rfl
@[simp] theorem clearBuffer_dec : (s.clearBuffer).dec = s.dec.withBytes [] := rfl
@[simp] theorem clearBuffer_txFifo : (s.clearBuffer).txFifo = s.txFifo := rfl
@[simp] theorem clearBuffer_pending : (s.clearBuffer).pending = s.pending := rfl
@[simp] theorem clearBuffer_script : (s.clearBuffer).script = s.script := rfl
@[simp] theorem clearBuffer_clk : (s.clearBuffer).clk = s.clk := rfl
@[simp] theorem clearBuffer_now : (s.clearBuffer).now = s.now := rfl
@[simp] theorem clearBuffer_port : (s.clearBuffer).port = s.port := rfl

/-! ### `State.resetDecoder` -/

@[simp] theorem resetDecoder_param : (s.resetDecoder).param = s.param := rfl
@[simp] theorem resetDecoder_ctrl : (s.resetDecoder).ctrl = s.ctrl := rfl
@[simp] theorem resetDecoder_irqStatus : (s.resetDecoder).irqStatus = s.irqStatus := rfl
@[simp] theorem resetDecoder_irqEnable : (s.resetDecoder).irqEnable = s.irqEnable := rfl
@[simp] theorem resetDecoder_cmdErr : (s.resetDecoder).cmdErr = s.cmdErr := rfl
@[simp] theorem resetDecoder_decErr : (s.resetDecoder).decErr = s.decErr := rfl
@[simp] theorem resetDecoder_staleTimeout : (s.resetDecoder).staleTimeout = s.staleTimeout := rfl
@[simp] theorem resetDecoder_txCmd : (s.resetDecoder).txCmd = s.txCmd := rfl
@[simp] theorem resetDecoder_seqTx : (s.resetDecoder).seqTx = s.seqTx := rfl
@[simp] theorem resetDecoder_seqRx : (s.resetDecoder).seqRx = s.seqRx := rfl
@[simp] theorem resetDecoder_tickCnt : (s.resetDecoder).tickCnt = s.tickCnt := rfl
@[simp] theorem resetDecoder_cnt : (s.resetDecoder).cnt = s.cnt := rfl
@[simp] theorem resetDecoder_cfg : (s.resetDecoder).cfg = s.cfg := rfl
@[simp] theorem resetDecoder_mem : (s.resetDecoder).mem = s.mem := rfl
@[simp] theorem resetDecoder_dsp : (s.resetDecoder).dsp = s.dsp := rfl
@[simp] theorem resetDecoder_dec : (s.resetDecoder).dec = Decoder.reset := rfl
@[simp] theorem resetDecoder_txFifo : (s.resetDecoder).txFifo = s.txFifo := rfl
@[simp] theorem resetDecoder_pending : (s.resetDecoder).pending = s.pending := rfl
@[simp] theorem resetDecoder_script : (s.resetDecoder).script = s.script := rfl
@[simp] theorem resetDecoder_clk : (s.resetDecoder).clk = s.clk := rfl
@[simp] theorem resetDecoder_now : (s.resetDecoder).now = s.now := rfl
@[simp] theorem resetDecoder_port : (s.resetDecoder).port = s.port := rfl

/-! ### `State.dispatchFrame` -/

@[simp] theorem dispatchFrame_param (t : FrameType) (q : Byte) (p : List Byte) : (s.dispatchFrame t q p).param = s.param := rfl
@[simp] theorem dispatchFrame_ctrl (t : FrameType) (q : Byte) (p : List Byte) : (s.dispatchFrame t q p).ctrl = s.ctrl := rfl
@[simp] theorem dispatchFrame_irqStatus (t : FrameType) (q : Byte) (p : List Byte) : (s.dispatchFrame t q p).irqStatus = s.irqStatus ||| irqRx t := rfl
@[simp] theorem dispatchFrame_irqEnable (t : FrameType) (q : Byte) (p : List Byte) : (s.dispatchFrame t q p).irqEnable = s.irqEnable := rfl
@[simp] theorem dispatchFrame_cmdErr (t : FrameType) (q : Byte) (p : List Byte) : (s.dispatchFrame t q p).cmdErr = s.cmdErr := rfl
@[simp] theorem dispatchFrame_decErr (t : FrameType) (q : Byte) (p : List Byte) : (s.dispatchFrame t q p).decErr = s.decErr := rfl
@[simp] theorem dispatchFrame_staleTimeout (t : FrameType) (q : Byte) (p : List Byte) : (s.dispatchFrame t q p).staleTimeout = s.staleTimeout := rfl
@[simp] theorem dispatchFrame_txCmd (t : FrameType) (q : Byte) (p : List Byte) : (s.dispatchFrame t q p).txCmd = s.txCmd := rfl
@[simp] theorem dispatchFrame_seqTx (t : FrameType) (q : Byte) (p : List Byte) : (s.dispatchFrame t q p).seqTx = s.seqTx := rfl
@[simp] theorem dispatchFrame_seqRx (t : FrameType) (q : Byte) (p : List Byte) : (s.dispatchFrame t q p).seqRx = s.seqRx.set t q := rfl
@[simp] theorem dispatchFrame_tickCnt (t : FrameType) (q : Byte) (p : List Byte) : (s.dispatchFrame t q p).tickCnt = s.tickCnt := rfl
@[simp] theorem dispatchFrame_cnt (t : FrameType) (q : Byte) (p : List Byte) : (s.dispatchFrame t q p).cnt = { s.cnt with rxOk := s.cnt.rxOk + 1#32 } := rfl
@[simp] theorem dispatchFrame_cfg (t : FrameType) (q : Byte) (p : List Byte) : (s.dispatchFrame t q p).cfg = s.cfg := rfl
@[simp] theorem dispatchFrame_mem (t : FrameType) (q : Byte) (p : List Byte) : (s.dispatchFrame t q p).mem = memWriteBytes s.mem (rxBase t) p := rfl
@[simp] theorem dispatchFrame_dsp (t : FrameType) (q : Byte) (p : List Byte) : (s.dispatchFrame t q p).dsp = s.dsp := rfl
@[simp] theorem dispatchFrame_dec (t : FrameType) (q : Byte) (p : List Byte) : (s.dispatchFrame t q p).dec = s.dec := rfl
@[simp] theorem dispatchFrame_txFifo (t : FrameType) (q : Byte) (p : List Byte) : (s.dispatchFrame t q p).txFifo = s.txFifo := rfl
@[simp] theorem dispatchFrame_pending (t : FrameType) (q : Byte) (p : List Byte) : (s.dispatchFrame t q p).pending = s.pending := rfl
@[simp] theorem dispatchFrame_script (t : FrameType) (q : Byte) (p : List Byte) : (s.dispatchFrame t q p).script = s.script := rfl
@[simp] theorem dispatchFrame_clk (t : FrameType) (q : Byte) (p : List Byte) : (s.dispatchFrame t q p).clk = s.clk := rfl
@[simp] theorem dispatchFrame_now (t : FrameType) (q : Byte) (p : List Byte) : (s.dispatchFrame t q p).now = { s.now with irqRaised := s.now.irqRaised ||| irqRx t } := rfl
@[simp] theorem dispatchFrame_port (t : FrameType) (q : Byte) (p : List Byte) : (s.dispatchFrame t q p).port = s.port := rfl

/-! ### `State.noteByte` -/

@[simp] theorem noteByte_param : (s.noteByte).param = s.param := rfl
@[simp] theorem noteByte_ctrl : (s.noteByte).ctrl = s.ctrl := rfl
@[simp] theorem noteByte_irqStatus : (s.noteByte).irqStatus = s.irqStatus := rfl
@[simp] theorem noteByte_irqEnable : (s.noteByte).irqEnable = s.irqEnable := rfl
@[simp] theorem noteByte_cmdErr : (s.noteByte).cmdErr = s.cmdErr := rfl
@[simp] theorem noteByte_decErr : (s.noteByte).decErr = s.decErr := rfl
@[simp] theorem noteByte_staleTimeout : (s.noteByte).staleTimeout = s.staleTimeout := rfl
@[simp] theorem noteByte_txCmd : (s.noteByte).txCmd = s.txCmd := rfl
@[simp] theorem noteByte_seqTx : (s.noteByte).seqTx = s.seqTx := rfl
@[simp] theorem noteByte_seqRx : (s.noteByte).seqRx = s.seqRx := rfl
@[simp] theorem noteByte_tickCnt : (s.noteByte).tickCnt = s.tickCnt := rfl
@[simp] theorem noteByte_cnt : (s.noteByte).cnt = s.cnt := rfl
@[simp] theorem noteByte_cfg : (s.noteByte).cfg = s.cfg := rfl
@[simp] theorem noteByte_mem : (s.noteByte).mem = s.mem := rfl
@[simp] theorem noteByte_dsp : (s.noteByte).dsp = s.dsp := rfl
@[simp] theorem noteByte_dec : (s.noteByte).dec = { s.dec with staleCnt := 0#16 } := rfl
@[simp] theorem noteByte_txFifo : (s.noteByte).txFifo = s.txFifo := rfl
@[simp] theorem noteByte_pending : (s.noteByte).pending = s.pending := rfl
@[simp] theorem noteByte_script : (s.noteByte).script = s.script := rfl
@[simp] theorem noteByte_clk : (s.noteByte).clk = s.clk := rfl
@[simp] theorem noteByte_now : (s.noteByte).now = { s.now with byteTaken := true } := rfl
@[simp] theorem noteByte_port : (s.noteByte).port = s.port := rfl

/-! ### `State.countStale` -/

@[simp] theorem countStale_param : (s.countStale).param = s.param := rfl
@[simp] theorem countStale_ctrl : (s.countStale).ctrl = s.ctrl := rfl
@[simp] theorem countStale_irqStatus : (s.countStale).irqStatus = s.irqStatus := rfl
@[simp] theorem countStale_irqEnable : (s.countStale).irqEnable = s.irqEnable := rfl
@[simp] theorem countStale_cmdErr : (s.countStale).cmdErr = s.cmdErr := rfl
@[simp] theorem countStale_decErr : (s.countStale).decErr = s.decErr := rfl
@[simp] theorem countStale_staleTimeout : (s.countStale).staleTimeout = s.staleTimeout := rfl
@[simp] theorem countStale_txCmd : (s.countStale).txCmd = s.txCmd := rfl
@[simp] theorem countStale_seqTx : (s.countStale).seqTx = s.seqTx := rfl
@[simp] theorem countStale_seqRx : (s.countStale).seqRx = s.seqRx := rfl
@[simp] theorem countStale_tickCnt : (s.countStale).tickCnt = s.tickCnt := rfl
@[simp] theorem countStale_cnt : (s.countStale).cnt = s.cnt := rfl
@[simp] theorem countStale_cfg : (s.countStale).cfg = s.cfg := rfl
@[simp] theorem countStale_mem : (s.countStale).mem = s.mem := rfl
@[simp] theorem countStale_dsp : (s.countStale).dsp = s.dsp := rfl
@[simp] theorem countStale_dec : (s.countStale).dec = { s.dec with staleCnt := nextStale s.dec.staleCnt } := rfl
@[simp] theorem countStale_txFifo : (s.countStale).txFifo = s.txFifo := rfl
@[simp] theorem countStale_pending : (s.countStale).pending = s.pending := rfl
@[simp] theorem countStale_script : (s.countStale).script = s.script := rfl
@[simp] theorem countStale_clk : (s.countStale).clk = s.clk := rfl
@[simp] theorem countStale_now : (s.countStale).now = s.now := rfl
@[simp] theorem countStale_port : (s.countStale).port = s.port := rfl

/-! ### `State.staleClear` -/

@[simp] theorem staleClear_param : (s.staleClear).param = s.param := rfl
@[simp] theorem staleClear_ctrl : (s.staleClear).ctrl = s.ctrl := rfl
@[simp] theorem staleClear_irqStatus : (s.staleClear).irqStatus = s.irqStatus ||| irqRxErr := rfl
@[simp] theorem staleClear_irqEnable : (s.staleClear).irqEnable = s.irqEnable := rfl
@[simp] theorem staleClear_cmdErr : (s.staleClear).cmdErr = s.cmdErr := rfl
@[simp] theorem staleClear_decErr : (s.staleClear).decErr = decErrWord .staleFrame s.dec := rfl
@[simp] theorem staleClear_staleTimeout : (s.staleClear).staleTimeout = s.staleTimeout := rfl
@[simp] theorem staleClear_txCmd : (s.staleClear).txCmd = s.txCmd := rfl
@[simp] theorem staleClear_seqTx : (s.staleClear).seqTx = s.seqTx := rfl
@[simp] theorem staleClear_seqRx : (s.staleClear).seqRx = s.seqRx := rfl
@[simp] theorem staleClear_tickCnt : (s.staleClear).tickCnt = s.tickCnt := rfl
@[simp] theorem staleClear_cnt : (s.staleClear).cnt = s.cnt.bumpDec .staleFrame := rfl
@[simp] theorem staleClear_cfg : (s.staleClear).cfg = s.cfg := rfl
@[simp] theorem staleClear_mem : (s.staleClear).mem = s.mem := rfl
@[simp] theorem staleClear_dsp : (s.staleClear).dsp = s.dsp := rfl
@[simp] theorem staleClear_dec : (s.staleClear).dec = { s.dec.withBytes [] with staleCnt := 0#16 } := rfl
@[simp] theorem staleClear_txFifo : (s.staleClear).txFifo = s.txFifo := rfl
@[simp] theorem staleClear_pending : (s.staleClear).pending = s.pending := rfl
@[simp] theorem staleClear_script : (s.staleClear).script = s.script := rfl
@[simp] theorem staleClear_clk : (s.staleClear).clk = s.clk := rfl
@[simp] theorem staleClear_now : (s.staleClear).now = { s.now with irqRaised := s.now.irqRaised ||| irqRxErr } := rfl
@[simp] theorem staleClear_port : (s.staleClear).port = s.port := rfl

/-! ### `State.setCfg` -/

@[simp] theorem setCfg_param (c : DspConfig) : (s.setCfg c).param = s.param := rfl
@[simp] theorem setCfg_ctrl (c : DspConfig) : (s.setCfg c).ctrl = s.ctrl := rfl
@[simp] theorem setCfg_irqStatus (c : DspConfig) : (s.setCfg c).irqStatus = s.irqStatus := rfl
@[simp] theorem setCfg_irqEnable (c : DspConfig) : (s.setCfg c).irqEnable = s.irqEnable := rfl
@[simp] theorem setCfg_cmdErr (c : DspConfig) : (s.setCfg c).cmdErr = s.cmdErr := rfl
@[simp] theorem setCfg_decErr (c : DspConfig) : (s.setCfg c).decErr = s.decErr := rfl
@[simp] theorem setCfg_staleTimeout (c : DspConfig) : (s.setCfg c).staleTimeout = s.staleTimeout := rfl
@[simp] theorem setCfg_txCmd (c : DspConfig) : (s.setCfg c).txCmd = s.txCmd := rfl
@[simp] theorem setCfg_seqTx (c : DspConfig) : (s.setCfg c).seqTx = s.seqTx := rfl
@[simp] theorem setCfg_seqRx (c : DspConfig) : (s.setCfg c).seqRx = s.seqRx := rfl
@[simp] theorem setCfg_tickCnt (c : DspConfig) : (s.setCfg c).tickCnt = s.tickCnt := rfl
@[simp] theorem setCfg_cnt (c : DspConfig) : (s.setCfg c).cnt = s.cnt := rfl
@[simp] theorem setCfg_cfg (c : DspConfig) : (s.setCfg c).cfg = c := rfl
@[simp] theorem setCfg_mem (c : DspConfig) : (s.setCfg c).mem = s.mem := rfl
@[simp] theorem setCfg_dsp (c : DspConfig) : (s.setCfg c).dsp = s.dsp := rfl
@[simp] theorem setCfg_dec (c : DspConfig) : (s.setCfg c).dec = s.dec := rfl
@[simp] theorem setCfg_txFifo (c : DspConfig) : (s.setCfg c).txFifo = s.txFifo := rfl
@[simp] theorem setCfg_pending (c : DspConfig) : (s.setCfg c).pending = s.pending := rfl
@[simp] theorem setCfg_script (c : DspConfig) : (s.setCfg c).script = s.script := rfl
@[simp] theorem setCfg_clk (c : DspConfig) : (s.setCfg c).clk = s.clk := rfl
@[simp] theorem setCfg_now (c : DspConfig) : (s.setCfg c).now = s.now := rfl
@[simp] theorem setCfg_port (c : DspConfig) : (s.setCfg c).port = s.port := rfl

/-! ### `State.respond` -/

@[simp] theorem respond_param (w : Word) (e : Bool) : (s.respond w e).param = s.param := rfl
@[simp] theorem respond_ctrl (w : Word) (e : Bool) : (s.respond w e).ctrl = s.ctrl := rfl
@[simp] theorem respond_irqStatus (w : Word) (e : Bool) : (s.respond w e).irqStatus = s.irqStatus := rfl
@[simp] theorem respond_irqEnable (w : Word) (e : Bool) : (s.respond w e).irqEnable = s.irqEnable := rfl
@[simp] theorem respond_cmdErr (w : Word) (e : Bool) : (s.respond w e).cmdErr = s.cmdErr := rfl
@[simp] theorem respond_decErr (w : Word) (e : Bool) : (s.respond w e).decErr = s.decErr := rfl
@[simp] theorem respond_staleTimeout (w : Word) (e : Bool) : (s.respond w e).staleTimeout = s.staleTimeout := rfl
@[simp] theorem respond_txCmd (w : Word) (e : Bool) : (s.respond w e).txCmd = s.txCmd := rfl
@[simp] theorem respond_seqTx (w : Word) (e : Bool) : (s.respond w e).seqTx = s.seqTx := rfl
@[simp] theorem respond_seqRx (w : Word) (e : Bool) : (s.respond w e).seqRx = s.seqRx := rfl
@[simp] theorem respond_tickCnt (w : Word) (e : Bool) : (s.respond w e).tickCnt = s.tickCnt := rfl
@[simp] theorem respond_cnt (w : Word) (e : Bool) : (s.respond w e).cnt = s.cnt := rfl
@[simp] theorem respond_cfg (w : Word) (e : Bool) : (s.respond w e).cfg = s.cfg := rfl
@[simp] theorem respond_mem (w : Word) (e : Bool) : (s.respond w e).mem = s.mem := rfl
@[simp] theorem respond_dsp (w : Word) (e : Bool) : (s.respond w e).dsp = s.dsp := rfl
@[simp] theorem respond_dec (w : Word) (e : Bool) : (s.respond w e).dec = s.dec := rfl
@[simp] theorem respond_txFifo (w : Word) (e : Bool) : (s.respond w e).txFifo = s.txFifo := rfl
@[simp] theorem respond_pending (w : Word) (e : Bool) : (s.respond w e).pending = s.pending := rfl
@[simp] theorem respond_script (w : Word) (e : Bool) : (s.respond w e).script = s.script := rfl
@[simp] theorem respond_clk (w : Word) (e : Bool) : (s.respond w e).clk = s.clk := rfl
@[simp] theorem respond_now (w : Word) (e : Bool) : (s.respond w e).now = s.now := rfl
@[simp] theorem respond_port (w : Word) (e : Bool) : (s.respond w e).port = { s.port with bus := some { data := w, err := e } } := rfl

/-! ### `State.startCycle` -/

@[simp] theorem startCycle_param : (s.startCycle).param = s.param := rfl
@[simp] theorem startCycle_ctrl : (s.startCycle).ctrl = s.ctrl := rfl
@[simp] theorem startCycle_irqStatus : (s.startCycle).irqStatus = s.irqStatus := rfl
@[simp] theorem startCycle_irqEnable : (s.startCycle).irqEnable = s.irqEnable := rfl
@[simp] theorem startCycle_cmdErr : (s.startCycle).cmdErr = s.cmdErr := rfl
@[simp] theorem startCycle_decErr : (s.startCycle).decErr = s.decErr := rfl
@[simp] theorem startCycle_staleTimeout : (s.startCycle).staleTimeout = s.staleTimeout := rfl
@[simp] theorem startCycle_txCmd : (s.startCycle).txCmd = s.txCmd := rfl
@[simp] theorem startCycle_seqTx : (s.startCycle).seqTx = s.seqTx := rfl
@[simp] theorem startCycle_seqRx : (s.startCycle).seqRx = s.seqRx := rfl
@[simp] theorem startCycle_tickCnt : (s.startCycle).tickCnt = s.tickCnt := rfl
@[simp] theorem startCycle_cnt : (s.startCycle).cnt = s.cnt := rfl
@[simp] theorem startCycle_cfg : (s.startCycle).cfg = s.cfg := rfl
@[simp] theorem startCycle_mem : (s.startCycle).mem = s.mem := rfl
@[simp] theorem startCycle_dsp : (s.startCycle).dsp = s.dsp := rfl
@[simp] theorem startCycle_dec : (s.startCycle).dec = s.dec := rfl
@[simp] theorem startCycle_txFifo : (s.startCycle).txFifo = s.txFifo := rfl
@[simp] theorem startCycle_pending : (s.startCycle).pending = s.pending := rfl
@[simp] theorem startCycle_script : (s.startCycle).script = s.script.tail := rfl
@[simp] theorem startCycle_clk : (s.startCycle).clk = s.clk + 1 := rfl
@[simp] theorem startCycle_now : (s.startCycle).now = CycleNotes.none := rfl
@[simp] theorem startCycle_port : (s.startCycle).port = PortOut.none := rfl

/-! ### `State.analyzeTick` -/

@[simp] theorem analyzeTick_param (f : F32 → F32) : (s.analyzeTick f).param = s.param := rfl
@[simp] theorem analyzeTick_ctrl (f : F32 → F32) : (s.analyzeTick f).ctrl = s.ctrl := rfl
@[simp] theorem analyzeTick_irqStatus (f : F32 → F32) : (s.analyzeTick f).irqStatus = s.irqStatus ||| irqTickDone := rfl
@[simp] theorem analyzeTick_irqEnable (f : F32 → F32) : (s.analyzeTick f).irqEnable = s.irqEnable := rfl
@[simp] theorem analyzeTick_cmdErr (f : F32 → F32) : (s.analyzeTick f).cmdErr = s.cmdErr := rfl
@[simp] theorem analyzeTick_decErr (f : F32 → F32) : (s.analyzeTick f).decErr = s.decErr := rfl
@[simp] theorem analyzeTick_staleTimeout (f : F32 → F32) : (s.analyzeTick f).staleTimeout = s.staleTimeout := rfl
@[simp] theorem analyzeTick_txCmd (f : F32 → F32) : (s.analyzeTick f).txCmd = s.txCmd := rfl
@[simp] theorem analyzeTick_seqTx (f : F32 → F32) : (s.analyzeTick f).seqTx = s.seqTx := rfl
@[simp] theorem analyzeTick_seqRx (f : F32 → F32) : (s.analyzeTick f).seqRx = s.seqRx := rfl
@[simp] theorem analyzeTick_tickCnt (f : F32 → F32) : (s.analyzeTick f).tickCnt = s.tickCnt + 1#32 := rfl
@[simp] theorem analyzeTick_cnt (f : F32 → F32) : (s.analyzeTick f).cnt = s.cnt := rfl
@[simp] theorem analyzeTick_cfg (f : F32 → F32) : (s.analyzeTick f).cfg = s.cfg := rfl
@[simp] theorem analyzeTick_dsp (f : F32 → F32) : (s.analyzeTick f).dsp = s.tickHistory f := rfl
@[simp] theorem analyzeTick_dec (f : F32 → F32) : (s.analyzeTick f).dec = s.dec := rfl
@[simp] theorem analyzeTick_txFifo (f : F32 → F32) : (s.analyzeTick f).txFifo = s.txFifo := rfl
@[simp] theorem analyzeTick_pending (f : F32 → F32) : (s.analyzeTick f).pending = s.pending := rfl
@[simp] theorem analyzeTick_script (f : F32 → F32) : (s.analyzeTick f).script = s.script := rfl
@[simp] theorem analyzeTick_clk (f : F32 → F32) : (s.analyzeTick f).clk = s.clk := rfl
@[simp] theorem analyzeTick_now (f : F32 → F32) : (s.analyzeTick f).now = { s.now with irqRaised := s.now.irqRaised ||| irqTickDone } := rfl
@[simp] theorem analyzeTick_port (f : F32 → F32) : (s.analyzeTick f).port = s.port := rfl

end

end Sys2Proof.Machine
end

