-- ==== Sys2Proof/Laws/Decoder.lean ====
section
/-! SUPPORT. The decoder's operations, each said once: the buffer as a list of bytes, Resync, one pass of Evaluate, the
whole of Evaluate, the byte step. -/

namespace Sys2Proof.Machine

/-! ### The buffer -/

theorem bufOfBytes_getElem (bs : List Byte) (k : Nat) (h : k < 75) : (bufOfBytes bs)[k] = bs.getD k 0#8 := by
  unfold bufOfBytes
  simp only [Vector.getElem_mk, List.getElem_toArray]
  rw [List.getElem_take, List.getElem_append]
  split
  · next hk => rw [List.getD_eq_getElem?_getD, List.getElem?_eq_getElem hk]; rfl
  · next hk =>
    rw [List.getElem_replicate, List.getD_eq_getElem?_getD, List.getElem?_eq_none (by omega)]; rfl

theorem bufOfBytes_toList_take (bs : List Byte) (h : bs.length ≤ 75) :
    (bufOfBytes bs).toList.take bs.length = bs := by
  unfold bufOfBytes
  simp only [Vector.toList_mk]
  rw [List.take_take, Nat.min_eq_left h, List.take_append_of_le_length (Nat.le_refl _), List.take_length]

@[simp] theorem withBytes_dbuf (d : Decoder) (bs : List Byte) : (d.withBytes bs).dbuf = bufOfBytes bs := by
  cases bs <;> rfl
@[simp] theorem withBytes_blen (d : Decoder) (bs : List Byte) : (d.withBytes bs).blen = bs.length := by
  cases bs <;> rfl
@[simp] theorem withBytes_staleCnt (d : Decoder) (bs : List Byte) : (d.withBytes bs).staleCnt = d.staleCnt := by
  cases bs <;> rfl

theorem withBytes_dstate (d : Decoder) (bs : List Byte) :
    (d.withBytes bs).dstate = if bs = [] then .seekingSof else .accumulating := by
  cases bs <;> rfl

theorem withBytes_bytes (d : Decoder) (bs : List Byte) (h : bs.length ≤ 75) : (d.withBytes bs).bytes = bs := by
  unfold Decoder.bytes
  rw [withBytes_dbuf, withBytes_blen, bufOfBytes_toList_take bs h]

@[simp] theorem withBytes_withBytes (d : Decoder) (as bs : List Byte) :
    (d.withBytes as).withBytes bs = d.withBytes bs := by
  cases as <;> cases bs <;> rfl

/-! ### Resync -/

theorem resyncKeep_length (bs : List Byte) : (resyncKeep bs).length ≤ bs.length - 1 := by
  unfold resyncKeep
  have := (List.dropWhile_sublist (fun b => b != sofByte) (l := bs.tail)).length_le
  simpa using this

theorem resyncKeep_suffix (bs : List Byte) : resyncKeep bs <:+ bs :=
  (List.dropWhile_suffix _).trans (List.tail_suffix bs)

theorem resyncKeep_head (bs : List Byte) : resyncKeep bs = [] ∨ (resyncKeep bs).head? = some sofByte := by
  unfold resyncKeep
  rcases h : bs.tail.dropWhile (fun b => b != sofByte) with _ | ⟨b, rest⟩
  · exact .inl rfl
  · right
    have := List.head?_dropWhile_not (fun b => b != sofByte) bs.tail
    rw [h] at this
    simpa using this

/-- The bytes Resync drops after the first hold no SOF. -/
theorem resyncKeep_skipped (bs : List Byte) :
    ∃ skipped, bs.tail = skipped ++ resyncKeep bs ∧ ∀ b ∈ skipped, b ≠ sofByte := by
  refine ⟨bs.tail.takeWhile (fun b => b != sofByte), (List.takeWhile_append_dropWhile).symm, ?_⟩
  intro b hb
  have := List.mem_takeWhile_imp hb
  simpa using this

/-! ### What a candidate is -/

theorem frameTypeOf_code (t : Byte) (ft : FrameType) (h : frameTypeOf t = some ft) : t = frameCode ft := by
  unfold frameTypeOf at h
  split at h
  · next ht => cases h; exact ht
  · split at h
    · next ht => cases h; exact ht
    · split at h
      · next ht => cases h; exact ht
      · cases h

theorem knownHeader_spec (t l : Byte) (ft : FrameType) (h : knownHeader t l = some ft) :
    t = frameCode ft ∧ l = frameLenByte ft := by
  unfold knownHeader at h
  split at h
  · cases h
  · next g hg =>
    split at h
    · next hl => cases h; exact ⟨frameTypeOf_code t ft hg, hl⟩
    · cases h

@[simp] theorem knownHeader_code (ft : FrameType) : knownHeader (frameCode ft) (frameLenByte ft) = some ft := by
  cases ft <;> rfl

/-- The outcomes of reading a candidate frame: a known header with the whole frame behind it; a known header with too few
bytes; an unknown header; or fewer than four bytes. -/
theorem decodeCandidate_cases (bs : List Byte) :
    (∃ b0 ft seq payload lo hi e rest,
        bs = b0 :: frameCode ft :: seq :: frameLenByte ft :: (payload ++ lo :: hi :: e :: rest)
        ∧ payload.length = ft.len ∧ decodeCandidate bs = .ok (mkFrame ft seq payload (hi ++ lo) e, rest))
    ∨ (∃ b0 ft seq body, bs = b0 :: frameCode ft :: seq :: frameLenByte ft :: body ∧ body.length < ft.len + 3
        ∧ decodeCandidate bs = .error .frameIncomplete)
    ∨ (∃ b0 t seq l body, bs = b0 :: t :: seq :: l :: body ∧ knownHeader t l = none
        ∧ decodeCandidate bs = .error (.lengthMismatch t l))
    ∨ (bs.length < 4 ∧ decodeCandidate bs = .error .headerIncomplete) := by
  rcases bs with _ | ⟨b0, _ | ⟨t, _ | ⟨seq, _ | ⟨l, body⟩⟩⟩⟩
  · exact .inr (.inr (.inr ⟨by simp, rfl⟩))
  · exact .inr (.inr (.inr ⟨by simp, rfl⟩))
  · exact .inr (.inr (.inr ⟨by simp, rfl⟩))
  · exact .inr (.inr (.inr ⟨by simp, rfl⟩))
  · rcases hk : knownHeader t l with _ | ft
    · exact .inr (.inr (.inl ⟨b0, t, seq, l, body, rfl, hk, by simp [decodeCandidate, hk]⟩))
    · obtain ⟨rfl, rfl⟩ := knownHeader_spec t l ft hk
      rcases hd : body.drop ft.len with _ | ⟨lo, _ | ⟨hi, _ | ⟨e, rest⟩⟩⟩
      · refine .inr (.inl ⟨b0, ft, seq, body, rfl, ?_, by simp [decodeCandidate, hd]⟩)
        have := congrArg List.length hd; simp at this; omega
      · refine .inr (.inl ⟨b0, ft, seq, body, rfl, ?_, by simp [decodeCandidate, hd]⟩)
        have := congrArg List.length hd; simp at this; omega
      · refine .inr (.inl ⟨b0, ft, seq, body, rfl, ?_, by simp [decodeCandidate, hd]⟩)
        have := congrArg List.length hd; simp at this; omega
      · refine .inl ⟨b0, ft, seq, body.take ft.len, lo, hi, e, rest, ?_, ?_, by simp [decodeCandidate, hd]⟩
        · rw [← hd, List.take_append_drop]
        · have := congrArg List.length hd; simp at this; simp; omega

/-! ### One pass and the whole of Evaluate -/

/-- A frame instruction always answers a next state. -/
theorem exec_mkFrame (t : FrameType) (seq : Byte) (payload : List Byte) (crc : BitVec 16) (eof : Byte) (s : State) :
    exec (mkFrame t seq payload crc eof) s = .next (s.receiveFrame t seq payload crc eof) := by
  cases t <;> rfl

/-- What a complete candidate leaves in the decoder: nothing after a delivery, what Resync keeps after an error. -/
theorem receiveFrame_dec (s : State) (t : FrameType) (seq : Byte) (payload : List Byte) (crc : BitVec 16) (eof : Byte) :
    (s.receiveFrame t seq payload crc eof).dec = s.dec.withBytes []
    ∨ (s.receiveFrame t seq payload crc eof).dec = s.dec.withBytes (resyncKeep s.dec.bytes) := by
  unfold State.receiveFrame
  split
  · exact .inr rfl
  · split
    · exact .inr rfl
    · exact .inl rfl

/-- What the decoder may touch: its own state, its error record, the counters, the snapshots, SEQ_RX and the event
bits (R151, R712, R806). -/
def DecoderTouches (s t : State) : Prop :=
  t = { s with dec := t.dec, decErr := t.decErr, cnt := t.cnt, mem := t.mem, seqRx := t.seqRx,
               irqStatus := t.irqStatus, now := t.now }

theorem DecoderTouches.refl (s : State) : DecoderTouches s s := rfl

theorem DecoderTouches.trans {s t u : State} (h : DecoderTouches s t) (h' : DecoderTouches t u) :
    DecoderTouches s u := by
  unfold DecoderTouches at *
  rw [h', h]

theorem receiveFrame_touches (s : State) (t : FrameType) (seq : Byte) (payload : List Byte) (crc : BitVec 16)
    (eof : Byte) : DecoderTouches s (s.receiveFrame t seq payload crc eof) := by
  unfold State.receiveFrame
  split
  · rfl
  · split <;> rfl

/-- Bytes Evaluate leaves behind: none, or a front that begins with SOF and is no complete candidate (R709). -/
def Settled (bs : List Byte) : Prop :=
  bs = [] ∨ (bs.head? = some sofByte ∧
    (bs.length < 4 ∨ ∃ b0 ft seq body, bs = b0 :: frameCode ft :: seq :: frameLenByte ft :: body
      ∧ body.length < ft.len + 3))

theorem evaluate_spec (n : Nat) (s : State) (bs : List Byte) (hd : s.dec = s.dec.withBytes bs) (hl : bs.length ≤ 75)
    (hn : bs.length ≤ n) (hh : bs = [] ∨ bs.head? = some sofByte) :
    ∃ t, evaluate n s = .next t ∧ DecoderTouches s t
      ∧ ∃ bs', t.dec = s.dec.withBytes bs' ∧ Settled bs' ∧ bs' <:+ bs := by
  induction n generalizing s bs with
  | zero =>
    refine ⟨s, rfl, .refl s, bs, hd, .inl ?_, List.suffix_refl bs⟩
    exact List.length_eq_zero_iff.mp (by omega)
  | succ n ih =>
    have hb : s.dec.bytes = bs := by rw [hd]; exact withBytes_bytes _ _ hl
    have hk : (resyncKeep bs).length ≤ n := by have := resyncKeep_length bs; omega
    have hk' : (resyncKeep bs).length ≤ 75 := by have := resyncKeep_length bs; omega
    have key : ∀ (u : State) (cs : List Byte), u.dec = s.dec.withBytes cs → DecoderTouches s u →
        cs.length ≤ 75 → cs.length ≤ n → (cs = [] ∨ cs.head? = some sofByte) → cs <:+ bs →
        ∃ t, evaluate n u = .next t ∧ DecoderTouches s t
          ∧ ∃ bs', t.dec = s.dec.withBytes bs' ∧ Settled bs' ∧ bs' <:+ bs := by
      intro u cs hu ht h1 h2 h3 h4
      obtain ⟨t, e1, e2, bs', e3, e4, e5⟩ := ih u cs (by rw [hu, withBytes_withBytes]) h1 h2 h3
      exact ⟨t, e1, ht.trans e2, bs', by rw [e3, hu, withBytes_withBytes], e4, e5.trans h4⟩
    rcases decodeCandidate_cases bs with ⟨b0, ft, seq, p, lo, hi, e, rest, h1, h2, h3⟩ | ⟨b0, ft, seq, body, h1, h2, h3⟩
        | ⟨b0, t, seq, l, body, h1, h2, h3⟩ | ⟨h1, h2⟩
    · simp only [evaluate, hb, h3, exec_mkFrame, andThen]
      rcases receiveFrame_dec s ft seq p (hi ++ lo) e with h | h
      · exact key _ [] h (receiveFrame_touches ..) (by simp) (by simp) (.inl rfl) (List.nil_suffix)
      · rw [hb] at h
        exact key _ _ h (receiveFrame_touches ..) hk' hk (resyncKeep_head bs) (resyncKeep_suffix bs)
    · simp only [evaluate, hb, h3]
      refine ⟨s, rfl, .refl s, bs, hd, .inr ⟨?_, .inr ⟨b0, ft, seq, body, h1, h2⟩⟩, List.suffix_refl bs⟩
      rcases hh with rfl | hh
      · cases h1
      · exact hh
    · simp only [evaluate, hb, h3]
      refine key _ (resyncKeep bs) ?_ rfl hk' hk (resyncKeep_head bs) (resyncKeep_suffix bs)
      show s.dec.withBytes (resyncKeep s.dec.bytes) = _
      rw [hb]
    · simp only [evaluate, hb, h2]
      refine ⟨s, rfl, .refl s, bs, hd, ?_, List.suffix_refl bs⟩
      rcases hh with rfl | hh
      · exact .inl rfl
      · exact .inr ⟨hh, .inl h1⟩

/-! ### The decoder invariant as a list of bytes -/

theorem bytes_getD (d : Decoder) (hl : d.blen ≤ 75) (k : Nat) (hk : k < d.blen) :
    d.bytes.getD k 0#8 = d.dbuf[k]'(by omega) := by
  unfold Decoder.bytes
  rw [List.getD_eq_getElem?_getD, List.getElem?_take_of_lt hk, List.getElem?_eq_getElem (by simp; omega)]
  simp

@[simp] theorem bytes_length (d : Decoder) (hl : d.blen ≤ 75) : d.bytes.length = d.blen := by
  unfold Decoder.bytes; simp; omega

/-- A decoder with bytes above `blen` at 0 is the decoder that holds its bytes. -/
theorem eq_withBytes (d : Decoder) (hl : d.blen ≤ 75) (hz : ∀ k : Fin 75, d.blen ≤ k.val → d.dbuf[k] = 0#8)
    (hs : d.dstate = .seekingSof ↔ d.blen = 0) : d = d.withBytes d.bytes := by
  have h1 : d.dbuf = bufOfBytes d.bytes := by
    apply Vector.ext
    intro k hk
    rw [bufOfBytes_getElem _ _ hk]
    by_cases h : k < d.blen
    · rw [bytes_getD d hl k h]
    · rw [List.getD_eq_getElem?_getD, List.getElem?_eq_none (by rw [bytes_length d hl]; omega)]
      exact hz ⟨k, hk⟩ (by simpa using h)
  have h2 : (d.withBytes d.bytes).blen = d.blen := by rw [withBytes_blen, bytes_length d hl]
  have h3 : (d.withBytes d.bytes).dstate = d.dstate := by
    rw [withBytes_dstate]
    have hb : d.bytes = [] ↔ d.blen = 0 := by rw [← List.length_eq_zero_iff, bytes_length d hl]
    by_cases h0 : d.blen = 0
    · rw [if_pos (hb.mpr h0), hs.mpr h0]
    · rw [if_neg (fun h => h0 (hb.mp h))]
      cases hd : d.dstate
      · exact absurd (hs.mp hd) h0
      · rfl
  have h4 : (d.withBytes d.bytes).dbuf = d.dbuf := by rw [withBytes_dbuf, ← h1]
  have h5 := withBytes_staleCnt d d.bytes
  revert h2 h3 h4 h5
  generalize d.withBytes d.bytes = e
  intro h2 h3 h4 h5
  cases d
  cases e
  dsimp only at h2 h3 h4 h5
  subst h2 h3 h4 h5
  rfl

theorem inv_withBytes (d : Decoder) (bs : List Byte) (hs : Settled bs) (hl : bs.length ≤ 75)
    (hz : bs = [] → d.staleCnt = 0#16) : (d.withBytes bs).Inv := by
  refine ⟨?_, ?_, ?_, ?_, ?_⟩
  · rw [withBytes_dstate, withBytes_blen]
    cases bs <;> simp
  · intro h
    rcases hs with rfl | ⟨hh, -⟩
    · rw [withBytes_dstate] at h; simp at h
    · have := bufOfBytes_getElem bs 0 (by omega)
      simp only [withBytes_dbuf]
      rw [this]
      cases bs with
      | nil => simp at hh
      | cons b rest => simpa using hh
  · intro h4
    rw [withBytes_blen] at h4
    rcases hs with rfl | ⟨-, h | ⟨b0, ft, seq, body, rfl, hb⟩⟩
    · simp at h4
    · omega
    · unfold Decoder.headerFits
      have e1 := bufOfBytes_getElem (b0 :: frameCode ft :: seq :: frameLenByte ft :: body) 1 (by omega)
      have e3 := bufOfBytes_getElem (b0 :: frameCode ft :: seq :: frameLenByte ft :: body) 3 (by omega)
      simp only [withBytes_dbuf, withBytes_blen, e1, e3]
      simp only [List.getD_cons_succ, List.getD_cons_zero, knownHeader_code, List.length_cons, decide_eq_true_eq]
      omega
  · intro k hk
    rw [withBytes_blen] at hk
    have := bufOfBytes_getElem bs k.val k.isLt
    simp only [withBytes_dbuf]
    show (bufOfBytes bs)[k.val] = _
    rw [this, List.getD_eq_getElem?_getD, List.getElem?_eq_none hk]; rfl
  · intro h
    rw [withBytes_dstate] at h
    rw [withBytes_staleCnt]
    split at h
    · next h0 => exact hz h0
    · cases h

/-- A decoder that meets its invariant holds at most 74 bytes. -/
theorem inv_blen (d : Decoder) (h : d.Inv) : d.blen ≤ 74 := by
  by_cases h4 : 4 ≤ d.blen
  · have := h.2.2.1 h4
    unfold Decoder.headerFits at this
    split at this
    · next t ht =>
      have : d.blen < t.len + 7 := by simpa using this
      have : t.len ≤ 68 := by cases t <;> decide
      omega
    · cases this
  · omega

/-- A decoder that meets its invariant is its bytes, and they are settled. -/
theorem inv_settled (d : Decoder) (h : d.Inv) : d = d.withBytes d.bytes ∧ Settled d.bytes := by
  have hl : d.blen ≤ 75 := by have := inv_blen d h; omega
  refine ⟨eq_withBytes d hl h.2.2.2.1 h.1, ?_⟩
  by_cases h0 : d.blen = 0
  · exact .inl (List.length_eq_zero_iff.mp (by rw [bytes_length d hl, h0]))
  · have hacc : d.dstate = .accumulating := by
      cases hd : d.dstate
      · exact absurd (h.1.mp hd) h0
      · rfl
    have hlen := bytes_length d hl
    refine .inr ⟨?_, ?_⟩
    · have := bytes_getD d hl 0 (by omega)
      rw [h.2.1 hacc] at this
      revert hlen this
      rcases d.bytes with _ | ⟨b, rest⟩
      · intro hlen _; simp at hlen; omega
      · intro _ h; simpa using h
    · by_cases h4 : 4 ≤ d.blen
      · right
        have hf := h.2.2.1 h4
        have e1 : d.bytes.getD 1 0#8 = d.dbuf[1] := bytes_getD d hl 1 (by omega)
        have e3 : d.bytes.getD 3 0#8 = d.dbuf[3] := bytes_getD d hl 3 (by omega)
        unfold Decoder.headerFits at hf
        revert hlen e1 e3
        rcases d.bytes with _ | ⟨b0, _ | ⟨t, _ | ⟨seq, _ | ⟨l, body⟩⟩⟩⟩
        · intro hlen; simp at hlen; omega
        · intro hlen; simp at hlen; omega
        · intro hlen; simp at hlen; omega
        · intro hlen; simp at hlen; omega
        · intro hlen e1 e3
          simp only [List.getD_cons_succ, List.getD_cons_zero] at e1 e3
          rw [← e1, ← e3] at hf
          split at hf
          · next ft hk =>
            obtain ⟨rfl, rfl⟩ := knownHeader_spec _ _ _ hk
            refine ⟨b0, ft, seq, body, rfl, ?_⟩
            have : d.blen < ft.len + 7 := by simpa using hf
            simp only [List.length_cons] at hlen
            omega
          · cases hf
      · left; omega

/-! ### The byte step -/

/-- A byte appended to a buffer with room. -/
theorem append_withBytes (d : Decoder) (x : Byte) (h : d.blen < 75) (hi : d = d.withBytes d.bytes)
    (ha : d.dstate = .accumulating) :
    d.append x h = d.withBytes (d.bytes ++ [x]) := by
  have hl : d.blen ≤ 75 := by omega
  have hlen := bytes_length d hl
  have h1 : (d.append x h).dbuf = bufOfBytes (d.bytes ++ [x]) := by
    apply Vector.ext
    intro k hk
    rw [bufOfBytes_getElem _ _ hk]
    show (d.dbuf.set d.blen x)[k] = _
    rw [Vector.getElem_set]
    have hb : d.dbuf = bufOfBytes d.bytes := by conv => lhs; rw [hi]; rw [withBytes_dbuf]
    split
    · next e => subst e; rw [List.getD_append_right _ _ _ _ (by omega), hlen]; simp
    · next e =>
      have : d.dbuf[k] = d.bytes.getD k 0#8 := by
        conv => lhs; arg 1; rw [hb]
        exact bufOfBytes_getElem _ _ hk
      rw [this]
      by_cases hk' : k < d.blen
      · rw [List.getD_append _ _ _ _ (by omega)]
      · rw [List.getD_append_right _ _ _ _ (by omega), hlen,
          List.getD_eq_getElem?_getD, List.getElem?_eq_none (by omega),
          List.getD_eq_getElem?_getD, List.getElem?_eq_none (by simp; omega)]
  have h2 : (d.withBytes (d.bytes ++ [x])).dstate = .accumulating := by
    rw [withBytes_dstate, if_neg (by simp)]
  have h3 : (d.withBytes (d.bytes ++ [x])).blen = d.blen + 1 := by rw [withBytes_blen]; simp [hlen]
  have h4 : (d.withBytes (d.bytes ++ [x])).dbuf = (d.append x h).dbuf := by rw [withBytes_dbuf, h1]
  have h5 := withBytes_staleCnt d (d.bytes ++ [x])
  revert h2 h3 h4 h5
  generalize d.withBytes (d.bytes ++ [x]) = e
  intro h2 h3 h4 h5
  cases d
  cases e
  dsimp only [Decoder.append] at h2 h3 h4 h5 ha
  subst h2 h3 h4 h5 ha
  rfl

theorem noteByte_bytes (s : State) : s.noteByte.dec.bytes = s.dec.bytes := rfl

/-- The notes may change too when a byte is taken. -/
theorem noteByte_touches (s : State) : DecoderTouches s s.noteByte := rfl

theorem appended_touches (s : State) (d : Decoder) : DecoderTouches s { s.noteByte with dec := d } := rfl

/-- A byte step from a decoder that meets its invariant: it never stops, it touches the decoder's own part of the state
alone, and the invariant holds afterwards (R701, R709). -/
theorem byteStep_spec (x : Byte) (s : State) (h : s.dec.Inv) :
    ∃ t, byteStep x s = .next t ∧ DecoderTouches s t ∧ t.dec.Inv ∧ t.dec.staleCnt = 0#16 := by
  obtain ⟨hw, hset⟩ := inv_settled _ h
  have hb74 := inv_blen _ h
  have hlen := bytes_length s.dec (by omega)
  have hnw : s.noteByte.dec = s.noteByte.dec.withBytes s.dec.bytes := by
    rw [noteByte_dec]
    conv => lhs; rw [hw]
    cases s.dec.bytes <;> rfl
  unfold byteStep
  cases hd : s.dec.dstate
  · have h0 := h.1.mp hd
    have hb : s.dec.bytes = [] := List.length_eq_zero_iff.mp (by omega)
    simp only
    split
    · next hx =>
      refine ⟨_, rfl, rfl, ?_, rfl⟩
      have : s.noteByte.dec.begin x = s.noteByte.dec.withBytes [x] := by
        rw [hnw, hb]; rfl
      show (s.noteByte.dec.begin x).Inv
      rw [this]
      exact inv_withBytes _ _ (.inr ⟨by simp [hx], .inl (by simp)⟩) (by simp) (by simp)
    · refine ⟨_, rfl, rfl, ?_, rfl⟩
      rw [hnw]
      exact inv_withBytes _ _ (by rw [hb]; exact .inl rfl) (by rw [hb]; simp) (fun _ => rfl)
  · simp only
    have hlt : s.noteByte.dec.blen < 75 := by show s.dec.blen < 75; omega
    rw [dif_pos hlt]
    have hne : s.dec.blen ≠ 0 := fun h0 => by have := h.1.mpr h0; rw [hd] at this; cases this
    have ha := append_withBytes s.noteByte.dec x hlt (by rw [noteByte_bytes]; exact hnw) hd
    rw [noteByte_bytes] at ha
    have hhead : (s.dec.bytes ++ [x]).head? = some sofByte := by
      rcases hset with h0 | ⟨hh, -⟩
      · rw [h0] at hlen; simp at hlen; omega
      · rw [List.head?_append, hh]; rfl
    obtain ⟨t, e1, e2, bs', e3, e4, e5⟩ := evaluate_spec (s.dec.blen + 1)
      { s.noteByte with dec := s.noteByte.dec.append x hlt } (s.dec.bytes ++ [x])
      (by
        show s.noteByte.dec.append x hlt = (s.noteByte.dec.append x hlt).withBytes _
        rw [ha, withBytes_withBytes])
      (by simp [hlen]; omega) (by simp [hlen]) (.inr hhead)
    refine ⟨t, e1, DecoderTouches.trans (appended_touches s _) e2, ?_, ?_⟩
    · rw [e3]
      have := e5.length_le
      refine inv_withBytes _ _ e4 (by simp [hlen] at this; omega) (fun _ => rfl)
    · rw [e3, withBytes_staleCnt]; rfl

/-- The memory a run of Evaluate leaves has every property that a snapshot write of the right length keeps (R712). -/
theorem evaluate_mem (P : Memory → Prop)
    (hP : ∀ m t p, P m → p.length = FrameType.len t → P (memWriteBytes m (rxBase t) p))
    (n : Nat) (s t : State) (hs : P s.mem) (h : evaluate n s = .next t) : P t.mem := by
  induction n generalizing s with
  | zero => cases h; exact hs
  | succ n ih =>
    rcases decodeCandidate_cases s.dec.bytes with ⟨b0, ft, seq, p, lo, hi, e, rest, h1, h2, h3⟩
        | ⟨b0, ft, seq, body, h1, h2, h3⟩ | ⟨b0, t', seq, l, body, h1, h2, h3⟩ | ⟨h1, h2⟩
    · simp only [evaluate, h3, exec_mkFrame, andThen] at h
      refine ih _ ?_ h
      unfold State.receiveFrame
      split
      · exact hs
      · split
        · exact hs
        · exact hP _ _ _ hs h2
    · simp only [evaluate, h3] at h; cases h; exact hs
    · simp only [evaluate, h3] at h; exact ih _ (by exact hs) h
    · simp only [evaluate, h2] at h; cases h; exact hs

theorem byteStep_mem (P : Memory → Prop)
    (hP : ∀ m t p, P m → p.length = FrameType.len t → P (memWriteBytes m (rxBase t) p))
    (x : Byte) (s t : State) (hs : P s.mem) (h : byteStep x s = .next t) : P t.mem := by
  unfold byteStep at h
  split at h
  · split at h <;> (cases h; exact hs)
  · split at h
    · exact evaluate_mem P hP _ _ _ (by exact hs) h
    · cases h

end Sys2Proof.Machine
end

