-- ==== Sys2Proof/Laws/Memory.lean ====
section
/-! SUPPORT. The laws of memory: a read after a write, the frame of a write, and the canonical form, kept by every
operation. They hold of every memory, in canonical form or not, except where the form is the subject. -/

namespace Sys2Proof.Machine

/-! ### Reading after a write -/

theorem memRead_erase_same (m : Memory) (a : Nat) : memRead (memErase m a) a = memResetByte a := by
  induction m with
  | nil => rfl
  | cons c m ih =>
    obtain ⟨k, v⟩ := c
    by_cases h : k = a
    · simpa [memErase, List.filter, h] using ih
    · have : (k != a) = true := by simp [h]
      simp only [memErase, List.filter, this, memRead, h, if_false]
      exact ih

theorem memRead_erase_other (m : Memory) {a x : Nat} (h : x ≠ a) : memRead (memErase m a) x = memRead m x := by
  induction m with
  | nil => rfl
  | cons c m ih =>
    obtain ⟨k, v⟩ := c
    by_cases hk : k = a
    · subst hk
      simp only [memErase, List.filter, bne_self_eq_false, memRead, Ne.symm h, if_false]
      exact ih
    · have : (k != a) = true := by simp [hk]
      simp only [memErase, List.filter, this, memRead]
      split
      · rfl
      · exact ih

theorem memRead_insert_same (m : Memory) (a : Nat) (v : Byte) (h : ∀ c ∈ m, c.1 ≠ a) :
    memRead (memInsert m a v) a = v := by
  induction m with
  | nil => simp [memInsert, memRead]
  | cons c m ih =>
    obtain ⟨k, x⟩ := c
    have hk : k ≠ a := h (k, x) (by simp)
    simp only [memInsert]
    split
    · simp [memRead]
    · simp only [memRead, hk, if_false]
      exact ih (fun c hc => h c (by simp [hc]))

theorem memRead_insert_other (m : Memory) {a x : Nat} (v : Byte) (h : x ≠ a) :
    memRead (memInsert m a v) x = memRead m x := by
  induction m with
  | nil => simp [memInsert, memRead, Ne.symm h]
  | cons c m ih =>
    obtain ⟨k, y⟩ := c
    simp only [memInsert]
    split
    · simp only [memRead, Ne.symm h, if_false]
    · simp only [memRead]
      split
      · rfl
      · exact ih

theorem memErase_keys (m : Memory) (a : Nat) : ∀ c ∈ memErase m a, c.1 ≠ a := by
  intro c hc
  simpa using (List.mem_filter.mp hc).2

/-- A read of the address just written gives the value written. -/
@[simp] theorem memRead_write_same (m : Memory) (a : Nat) (v : Byte) : memRead (memWrite m a v) a = v := by
  unfold memWrite
  split
  · next h => rw [memRead_erase_same, h]
  · exact memRead_insert_same _ _ _ (memErase_keys m a)

/-- A write leaves every other address alone. -/
theorem memRead_write_other (m : Memory) {a x : Nat} (v : Byte) (h : x ≠ a) :
    memRead (memWrite m a v) x = memRead m x := by
  unfold memWrite
  split
  · exact memRead_erase_other m h
  · rw [memRead_insert_other _ _ h, memRead_erase_other m h]

/-- A read after a write of bytes: inside the bytes written, else as before. -/
theorem memRead_writeBytes (bs : List Byte) (m : Memory) (a x : Nat) :
    memRead (memWriteBytes m a bs) x =
      if a ≤ x ∧ x < a + bs.length then bs.getD (x - a) 0#8 else memRead m x := by
  induction bs generalizing m a with
  | nil =>
    have : ¬ (a ≤ x ∧ x < a + ([] : List Byte).length) := by simp
    simp only [memWriteBytes, this, if_false]
  | cons b bs ih =>
    simp only [memWriteBytes, ih, List.length_cons]
    by_cases hx : x = a
    · subst hx
      simp
    · rw [memRead_write_other m b hx]
      by_cases h : a + 1 ≤ x ∧ x < a + 1 + bs.length
      · have h' : a ≤ x ∧ x < a + (bs.length + 1) := ⟨by omega, by omega⟩
        rw [if_pos h, if_pos h']
        have : x - a = (x - (a + 1)) + 1 := by omega
        rw [this, List.getD_cons_succ]
      · have h' : ¬ (a ≤ x ∧ x < a + (bs.length + 1)) := by omega
        rw [if_neg h, if_neg h']

theorem memRead_writeBytes_outside (bs : List Byte) (m : Memory) {a x : Nat} (h : x < a ∨ a + bs.length ≤ x) :
    memRead (memWriteBytes m a bs) x = memRead m x := by
  rw [memRead_writeBytes, if_neg (by omega)]

theorem memRead_writeBytes_inside (bs : List Byte) (m : Memory) (a k : Nat) (h : k < bs.length) :
    memRead (memWriteBytes m a bs) (a + k) = bs.getD k 0#8 := by
  rw [memRead_writeBytes, if_pos ⟨by omega, by omega⟩, show a + k - a = k by omega]

@[simp] theorem memReadBytes_length (m : Memory) (a n : Nat) : (memReadBytes m a n).length = n := by
  induction n generalizing a with
  | zero => rfl
  | succ n ih => simp [memReadBytes, ih]

theorem memReadBytes_getD (m : Memory) (a n k : Nat) (h : k < n) :
    (memReadBytes m a n).getD k 0#8 = memRead m (a + k) := by
  induction n generalizing a k with
  | zero => omega
  | succ n ih =>
    cases k with
    | zero => simp [memReadBytes]
    | succ k =>
      have := ih (a + 1) k (by omega)
      simp only [memReadBytes, List.getD_cons_succ, this]
      congr 1; omega

theorem memReadBytes_eq_map (m : Memory) (a n : Nat) :
    memReadBytes m a n = (List.range n).map (fun k => memRead m (a + k)) := by
  induction n generalizing a with
  | zero => rfl
  | succ n ih =>
    simp only [memReadBytes, ih, List.range_succ_eq_map, List.map_cons, List.map_map, Nat.add_zero]
    congr 1
    apply List.map_congr_left
    intro k _
    simp only [Function.comp]
    congr 1; omega

/-- Two memories that read alike over a stretch give the same bytes. -/
theorem memReadBytes_congr (m m' : Memory) (a n : Nat) (h : ∀ x, a ≤ x → x < a + n → memRead m x = memRead m' x) :
    memReadBytes m a n = memReadBytes m' a n := by
  rw [memReadBytes_eq_map, memReadBytes_eq_map]
  apply List.map_congr_left
  intro k hk
  exact h _ (by omega) (by have := List.mem_range.mp hk; omega)

/-- Reading back exactly the bytes written. -/
theorem memReadBytes_writeBytes (bs : List Byte) (m : Memory) (a : Nat) :
    memReadBytes (memWriteBytes m a bs) a bs.length = bs := by
  rw [memReadBytes_eq_map]
  apply List.ext_getElem
  · simp
  · intro k h1 h2
    simp only [List.getElem_map, List.getElem_range]
    rw [memRead_writeBytes_inside bs m a k h2]
    simp [List.getD_eq_getElem?_getD, h2]

theorem memReadWord_congr (m m' : Memory) (a : Nat) (h : ∀ x, a ≤ x → x < a + 4 → memRead m x = memRead m' x) :
    memReadWord m a = memReadWord m' a := by
  unfold memReadWord
  rw [h a (by omega) (by omega), h (a + 1) (by omega) (by omega), h (a + 2) (by omega) (by omega),
    h (a + 3) (by omega) (by omega)]

theorem wordOfBytes_wordByte (w : Word) :
    wordOfBytes (wordByte w 0) (wordByte w 1) (wordByte w 2) (wordByte w 3) = w := by
  unfold wordOfBytes wordByte
  ext i
  simp only [BitVec.getElem_append, BitVec.getElem_extractLsb']
  split
  · simp; rw [← BitVec.getLsbD_eq_getElem]
  · split
    · simp; rw [← BitVec.getLsbD_eq_getElem]; congr 1; omega
    · split
      · simp; rw [← BitVec.getLsbD_eq_getElem]; congr 1; omega
      · simp; rw [← BitVec.getLsbD_eq_getElem]; congr 1; omega

/-- A word just written reads back. -/
theorem memReadWord_writeBytes_word (m : Memory) (a : Nat) (w : Word) :
    memReadWord (memWriteBytes m a (bytesOfWord w)) a = w := by
  have h : ∀ k, k < 4 → memRead (memWriteBytes m a (bytesOfWord w)) (a + k) = (bytesOfWord w).getD k 0#8 :=
    fun k hk => memRead_writeBytes_inside _ m a k (by simpa [bytesOfWord] using hk)
  have h0 := h 0 (by omega); have h1 := h 1 (by omega); have h2 := h 2 (by omega); have h3 := h 3 (by omega)
  simp only [Nat.add_zero, bytesOfWord, List.getD_cons_zero, List.getD_cons_succ] at h0 h1 h2 h3
  unfold memReadWord
  simp only [bytesOfWord]
  rw [h0, h1, h2, h3, wordOfBytes_wordByte]

/-! ### The canonical form -/

/-- The canonical form as a statement about the list. -/
theorem memory_wf_iff (m : Memory) :
    Memory.wf m = true ↔ m.Pairwise (fun c d => c.1 < d.1) ∧ ∀ c ∈ m, c.2 ≠ memResetByte c.1 := by
  have key : memSorted m = true ↔ m.Pairwise (fun c d => c.1 < d.1) := by
    induction m with
    | nil => simp [memSorted]
    | cons c m ih =>
      cases m with
      | nil => simp [memSorted]
      | cons d m =>
        simp only [memSorted, Bool.and_eq_true, decide_eq_true_eq, ih]
        constructor
        · rintro ⟨h, hp⟩
          refine List.pairwise_cons.mpr ⟨?_, hp⟩
          intro e he
          rcases List.mem_cons.mp he with rfl | he
          · exact h
          · exact lt_trans h ((List.pairwise_cons.mp hp).1 e he)
        · intro hp
          have := List.pairwise_cons.mp hp
          exact ⟨this.1 d (by simp), this.2⟩
  simp only [Memory.wf, Bool.and_eq_true, key, List.all_eq_true, bne_iff_ne, ne_eq]

theorem memInsert_mem (m : Memory) (a : Nat) (v : Byte) (c : Host.Cell) :
    c ∈ memInsert m a v ↔ c = (a, v) ∨ c ∈ m := by
  induction m with
  | nil => simp [memInsert]
  | cons d m ih =>
    obtain ⟨k, x⟩ := d
    simp only [memInsert]
    split
    · simp
    · simp only [List.mem_cons, ih]
      tauto

theorem memInsert_pairwise (m : Memory) (a : Nat) (v : Byte) (hp : m.Pairwise (fun c d => c.1 < d.1))
    (ha : ∀ c ∈ m, c.1 ≠ a) : (memInsert m a v).Pairwise (fun c d => c.1 < d.1) := by
  induction m with
  | nil => simp [memInsert]
  | cons d m ih =>
    obtain ⟨k, x⟩ := d
    have hd := List.pairwise_cons.mp hp
    simp only [memInsert]
    split
    · next h =>
      refine List.pairwise_cons.mpr ⟨?_, hp⟩
      intro e he
      rcases List.mem_cons.mp he with rfl | he
      · exact h
      · exact lt_trans h (hd.1 e he)
    · next h =>
      have hka : k ≠ a := ha (k, x) (by simp)
      refine List.pairwise_cons.mpr ⟨?_, ih hd.2 (fun c hc => ha c (by simp [hc]))⟩
      intro e he
      rcases (memInsert_mem m a v e).mp he with rfl | he
      · show k < a; omega
      · exact hd.1 e he

/-- A write keeps the canonical form. -/
theorem memWrite_wf (m : Memory) (a : Nat) (v : Byte) (h : Memory.wf m = true) : Memory.wf (memWrite m a v) = true := by
  rw [memory_wf_iff] at h ⊢
  have he : (memErase m a).Pairwise (fun c d => c.1 < d.1) := h.1.filter _
  have hv : ∀ c ∈ memErase m a, c.2 ≠ memResetByte c.1 := fun c hc => h.2 c (List.mem_filter.mp hc).1
  unfold memWrite
  split
  · exact ⟨he, hv⟩
  · next hne =>
    refine ⟨memInsert_pairwise _ _ _ he (memErase_keys m a), ?_⟩
    intro c hc
    rcases (memInsert_mem _ _ _ _).mp hc with rfl | hc
    · exact hne
    · exact hv c hc

/-- Writing bytes keeps the canonical form. -/
theorem memWriteBytes_wf (bs : List Byte) (m : Memory) (a : Nat) (h : Memory.wf m = true) :
    Memory.wf (memWriteBytes m a bs) = true := by
  induction bs generalizing m a with
  | nil => exact h
  | cons b bs ih => exact ih _ _ (memWrite_wf m a b h)

/-- Writing a word keeps the canonical form. -/
theorem memWriteWord_wf (m : Memory) (a : Nat) (w : Word) (h : Memory.wf m = true) :
    Memory.wf (memWriteWord m a w) = true := memWriteBytes_wf _ _ _ h

/-- The reset images keep the canonical form. -/
theorem resetImages_wf (m : Memory) (h : Memory.wf m = true) : Memory.wf (resetImages m) = true :=
  memWriteBytes_wf _ _ _ (memWriteBytes_wf _ _ _ h)

/-- Reset memory has the canonical form. -/
theorem reset_mem_wf : Memory.wf State.reset.mem = true := rfl

/-! ### Which addresses are listed -/

theorem memWrite_all (p : Host.Cell → Bool) (m : Memory) (a : Nat) (v : Byte) (h : m.all p = true)
    (ha : p (a, v) = true) : (memWrite m a v).all p = true := by
  simp only [List.all_eq_true] at h ⊢
  intro c hc
  unfold memWrite at hc
  split at hc
  · exact h c (List.mem_filter.mp hc).1
  · rcases (memInsert_mem _ _ _ _).mp hc with rfl | hc
    · exact ha
    · exact h c (List.mem_filter.mp hc).1

/-- Bytes written inside the windows leave nothing listed outside them. -/
theorem memWriteBytes_inWindow (n : Nat) (bs : List Byte) (m : Memory) (a : Nat)
    (h : m.all (fun c => inWindow n c.1) = true) (hw : ∀ k, k < bs.length → inWindow n (a + k) = true) :
    (memWriteBytes m a bs).all (fun c => inWindow n c.1) = true := by
  induction bs generalizing m a with
  | nil => exact h
  | cons b bs ih =>
    refine ih _ _ (memWrite_all _ m a b h (by simpa using hw 0 (by simp))) ?_
    intro k hk
    have := hw (k + 1) (by simpa using hk)
    rwa [show a + (k + 1) = a + 1 + k by omega] at this

/-! ### The reset images -/

/-- A run of zero bytes holds zero bytes, and zero is what stands past its end. -/
theorem getD_replicate_zero (n k : Nat) : (List.replicate n (0#8 : Byte)).getD k 0#8 = 0#8 := by
  induction n generalizing k with
  | zero => rfl
  | succ n ih =>
    cases k with
    | zero => rfl
    | succ k => exact ih k

/-- The reset images: FEAT_IMG and AUX_IMG read their reset bytes, every other byte reads as before. -/
theorem memRead_resetImages (m : Memory) (x : Nat) :
    memRead (resetImages m) x =
      if (0x600 ≤ x ∧ x < 0x644) ∨ (0x680 ≤ x ∧ x < 0x6A4) then memResetByte x else memRead m x := by
  unfold resetImages
  rw [memRead_writeBytes, memRead_writeBytes]
  have h1 : auxImgBase = 0x680 := rfl
  have h2 : featImgBase = 0x600 := rfl
  have h3 : (List.replicate 36 (0#8 : Byte)).length = 36 := rfl
  have h4 : featResetImage.length = 68 := rfl
  rw [h1, h2, h3, h4]
  by_cases ha : 0x680 ≤ x ∧ x < 0x680 + 36
  · rw [if_pos ha, if_pos (Or.inr ⟨ha.1, by omega⟩)]
    have h5 : ∀ k, (List.replicate 36 (0#8 : Byte)).getD k 0#8 = 0#8 := by
      intro k
      exact getD_replicate_zero 36 k
    rw [h5]
    unfold memResetByte
    rw [if_neg (by omega), if_neg (by omega)]
  · rw [if_neg ha]
    by_cases hf : 0x600 ≤ x ∧ x < 0x600 + 68
    · rw [if_pos hf, if_pos (Or.inl ⟨hf.1, by omega⟩)]
      obtain ⟨k, rfl⟩ : ∃ k, x = 0x600 + k := ⟨x - 0x600, by omega⟩
      have hk : k < 68 := by omega
      have key : ∀ k : Fin 68, featResetImage.getD k.val 0#8 = memResetByte (0x600 + k.val) := by decide
      have := key ⟨k, hk⟩
      simpa using this
    · rw [if_neg hf, if_neg (by omega)]

end Sys2Proof.Machine
end

