-- ==== Sys2Proof/Laws/Encode.lean ====
section
/-! SUPPORT. The encoder's operations (45_frame_encoder.md), each said once, and the bytes of an encoded instruction. -/

namespace Sys2Proof.Machine

/-- Reading bytes one by one is reading them from memory (R203). -/
theorem bytesAt_eq (s : State) (a n : Nat) : s.bytesAt a n = memReadBytes s.mem a n :=
  (memReadBytes_eq_map s.mem a n).symm

theorem featImage_eq (s : State) : s.featImage = s.bytesAt 0x600 68 := (bytesAt_eq s _ _).symm
theorem auxImage_eq (s : State) : s.auxImage = s.bytesAt 0x680 36 := (bytesAt_eq s _ _).symm
theorem txRaw_eq (s : State) (n : Nat) : s.txRaw n = s.bytesAt 0x880 n := (bytesAt_eq s _ _).symm

@[simp] theorem bytesAt_length (s : State) (a n : Nat) : (s.bytesAt a n).length = n := by
  rw [bytesAt_eq, memReadBytes_length]

/-- The frame the encoder builds is the frame of the wire format (R310, R652). -/
theorem encodedFrame_eq (t : FrameType) (seq : Byte) (payload : List Byte) :
    encodedFrame t seq payload = wireFrame (frameCode t) seq (frameLenByte t) payload := rfl

@[simp] theorem wireFrame_length (code seq len : Byte) (payload : List Byte) :
    (wireFrame code seq len payload).length = payload.length + 7 := by
  simp [wireFrame]

@[simp] theorem encodedFrame_length (t : FrameType) (seq : Byte) (payload : List Byte) :
    (encodedFrame t seq payload).length = payload.length + 7 := by
  rw [encodedFrame_eq, wireFrame_length]

/-- What Encode does: the whole frame and the next sequence number, or a counted and recorded drop (R652, R655). -/
theorem encodeFrame_cases (s : State) (opcode : Byte) (t : FrameType) (payload : List Byte) :
    (t.len + 7 ≤ s.param.txqDepth - s.txFifo.length
      ∧ s.encodeFrame opcode t payload = { s with
          txFifo := s.txFifo ++ wireFrame (frameCode t) (s.seqTx.get t) (frameLenByte t) payload
          seqTx := s.seqTx.set t (s.seqTx.get t + 1#8) })
    ∨ (s.param.txqDepth - s.txFifo.length < t.len + 7
      ∧ s.encodeFrame opcode t payload
        = ({ s with cnt := { s.cnt with txDrop := s.cnt.txDrop + 1#32 } } : State).raiseCmdError .txOverflow opcode
            (frameCode t)) := by
  unfold State.encodeFrame State.txFits
  by_cases h : t.len + 7 ≤ s.param.txqDepth - s.txFifo.length
  · exact .inl ⟨h, by rw [if_pos (by simpa using h), encodedFrame_eq]⟩
  · exact .inr ⟨by omega, by rw [if_neg (by simpa using h)]⟩

/-- An encoded frame keeps the FIFO within its capacity (R152, R655). -/
theorem encodeFrame_bounded (s : State) (opcode : Byte) (t : FrameType) (payload : List Byte)
    (hp : payload.length = t.len) (h : s.FifoBounded) : (s.encodeFrame opcode t payload).FifoBounded := by
  rcases encodeFrame_cases s opcode t payload with ⟨hf, e⟩ | ⟨-, e⟩
  · rw [e]
    show (s.txFifo ++ _).length ≤ s.param.txqDepth
    rw [List.length_append, wireFrame_length, hp]
    unfold State.FifoBounded at h
    omega
  · rw [e]; exact h

/-- Encode leaves every field but the FIFO, the sequence counters, CNT_TX_DROP, CMD_ERR and IRQ_STATUS alone. -/
theorem encodeFrame_frame (s : State) (opcode : Byte) (t : FrameType) (payload : List Byte) :
    ∃ fifo seqs drops err irq notes, s.encodeFrame opcode t payload = { s with
      txFifo := fifo, seqTx := seqs, cnt := { s.cnt with txDrop := drops }, cmdErr := err, irqStatus := irq,
      now := notes } := by
  rcases encodeFrame_cases s opcode t payload with ⟨-, e⟩ | ⟨-, e⟩
  · exact ⟨_, _, s.cnt.txDrop, s.cmdErr, s.irqStatus, s.now, e⟩
  · exact ⟨s.txFifo, s.seqTx, s.cnt.txDrop + 1#32, _, _, _, e⟩

/-! ### Frames as bytes -/

theorem crc_halves (crc : BitVec 16) : crc.extractLsb' 8 8 ++ crc.extractLsb' 0 8 = crc := by
  apply BitVec.eq_of_getLsbD_eq
  intro i hi
  rw [BitVec.getLsbD_append]
  by_cases h : i < 8
  · simp [h]
  · have : i - 8 < 8 := by omega
    simp [h, this, show 8 + (i - 8) = i by omega]

/-- The bytes of a frame, as a candidate at the front of a buffer, are read back as that frame (R310, R703). -/
theorem decodeCandidate_frameBytes (t : FrameType) (seq : Byte) (payload : List Byte) (crc : BitVec 16) (eof : Byte)
    (rest : List Byte) (hp : payload.length = t.len) :
    decodeCandidate (frameBytes t seq payload crc eof ++ rest) = .ok (mkFrame t seq payload crc eof, rest) := by
  unfold frameBytes
  simp only [List.cons_append, decodeCandidate, knownHeader_code, List.append_assoc, List.nil_append]
  rw [← hp, List.drop_left, List.take_left]
  simp only [crc_halves]

theorem decodeFrame_frameBytes (t : FrameType) (seq : Byte) (payload : List Byte) (crc : BitVec 16) (eof : Byte)
    (rest : List Byte) (hp : payload.length = t.len) :
    decodeFrame (frameBytes t seq payload crc eof ++ rest) = .ok (mkFrame t seq payload crc eof, rest) := by
  rw [← decodeCandidate_frameBytes t seq payload crc eof rest hp]
  rfl

end Sys2Proof.Machine
end

