-- ==== Sys2Proof/Laws/Analyze.lean ====
section
/-! SUPPORT. ANALYZE (40_command_engine.md R402), said once: a legal configuration passes the checks, and the completed
tick leaves the new history, the two images and what the automatic frames change. -/

namespace Sys2Proof.Machine

@[simp] theorem vec12_getElem {α : Type} (f : Fin 12 → α) (i : Fin 12) : (vec12 f)[i] = f i := by
  fin_cases i <;> rfl

theorem vec12_toList {α : Type} (f : Fin 12 → α) : (vec12 f).toList = (List.finRange 12).map f := rfl

/-! ### The configuration checks -/

theorem badRange_eq_false_iff (n : Nat) (r : BinRange) : badRange n r = false ↔ RangeLegal n r := by
  unfold badRange RangeLegal
  simp only [Bool.or_eq_false_iff, decide_eq_false_iff_not, BitVec.not_lt, Nat.not_le]

theorem bandRange_getD (cfg : DspConfig) (i : Fin 12) :
    cfg.bandRange.toList.getD i.val BinRange.reset = cfg.bandRange[i] := by
  rw [List.getD_eq_getElem?_getD, List.getElem?_eq_getElem (by simp)]
  simp

theorem activeMask_bit (n i : Nat) (hi : i < 12) : (activeMask n).getLsbD i = decide (i < n) := by
  unfold activeMask
  rw [BitVec.getLsbD_ofNat, Nat.testBit_two_pow_sub_one]
  simp [hi]

/-- `act` picks the active bands out of a mask. -/
theorem masksOverlap_eq_false_iff (n : Nat) (cfg : DspConfig) :
    masksOverlap n cfg = false ↔ ∀ i : Fin 12, i.val < n →
      (cfg.bassMask.getLsbD i.val && cfg.midMask.getLsbD i.val) = false
      ∧ (cfg.bassMask.getLsbD i.val && cfg.trebMask.getLsbD i.val) = false
      ∧ (cfg.midMask.getLsbD i.val && cfg.trebMask.getLsbD i.val) = false := by
  unfold masksOverlap
  rw [bne_eq_false_iff_eq]
  constructor
  · intro h i hi
    have := congrArg (fun v => v.getLsbD i.val) h
    simp only [BitVec.getLsbD_and, BitVec.getLsbD_or, activeMask_bit n i.val i.isLt, BitVec.getLsbD_zero] at this
    simp only [hi, decide_true, Bool.and_true, Bool.or_eq_false_iff] at this
    exact ⟨this.1.1, this.1.2, this.2⟩
  · intro h
    apply BitVec.eq_of_getLsbD_eq
    intro i hi
    simp only [BitVec.getLsbD_and, BitVec.getLsbD_or, activeMask_bit n i hi, BitVec.getLsbD_zero]
    by_cases hin : i < n
    · obtain ⟨h1, h2, h3⟩ := h ⟨i, hi⟩ hin
      simp only at h1 h2 h3
      rw [h1, h2, h3]; rfl
    · simp [hin]

theorem badBand_none (s : State) (h12 : s.ctrl.nbands ≤ 12#4) (h : s.BandsLegal) :
    badBand s.param.nBins s.activeBands s.cfg = none := by
  unfold badBand
  rw [List.find?_eq_none]
  intro i hi
  have hi : i < s.ctrl.nbands.toNat := by simpa [State.activeBands] using hi
  have h12 : s.ctrl.nbands.toNat ≤ 12 := by simpa [BitVec.le_def] using h12
  have := (badRange_eq_false_iff _ _).mpr (h ⟨i, by omega⟩ hi)
  rw [← bandRange_getD] at this
  simp only at this
  rw [this]
  exact Bool.false_ne_true

/-- A legal configuration passes every check (R402). -/
theorem analyzeCheck_none (s : State) (h : s.AnalyzeLegal) :
    analyzeCheck s.param.nBins s.activeBands s.cfg = none := by
  obtain ⟨h12, hb, h1, h2, h3, hm⟩ := h
  have hov : masksOverlap s.activeBands s.cfg = false := (masksOverlap_eq_false_iff _ _).mpr hm
  unfold analyzeCheck
  rw [badBand_none s h12 hb]
  simp only [(badRange_eq_false_iff _ _).mpr h1, (badRange_eq_false_iff _ _).mpr h2, (badRange_eq_false_iff _ _).mpr h3,
    hov, Bool.false_eq_true, if_false]

/-! ### The images -/

theorem tickFeat_length (log1p : F32 → F32) (s : State) : (s.tickFeat log1p).length = 68 := by
  have key : ∀ xs : List F32, (xs.flatMap bytesOfWord).length = 4 * xs.length := by
    intro xs
    induction xs with
    | nil => rfl
    | cons x xs ih => rw [List.flatMap_cons, List.length_append, ih, List.length_cons]; simp [bytesOfWord]; omega
  unfold State.tickFeat featFields
  simp only [List.length_append, key, Vector.length_toList, List.length_cons, List.length_nil]

theorem tickAux_length (log1p : F32 → F32) (s : State) : (s.tickAux log1p).length = 36 := by
  unfold State.tickAux auxFields
  simp only [List.length_append, Vector.length_toList, List.length_cons, List.length_nil, bytesOfHalf]

/-! ### The completed tick -/

theorem autoFeature_frame (s : State) : ∃ fifo seqs drops err irq notes, s.autoFeature = { s with
    txFifo := fifo, seqTx := seqs, cnt := { s.cnt with txDrop := drops }, cmdErr := err, irqStatus := irq,
    now := notes } := by
  unfold State.autoFeature
  split
  · exact encodeFrame_frame _ _ _ _
  · exact ⟨s.txFifo, s.seqTx, s.cnt.txDrop, s.cmdErr, s.irqStatus, s.now, rfl⟩

theorem autoAux_frame (s : State) : ∃ fifo seqs drops err irq notes, s.autoAux = { s with
    txFifo := fifo, seqTx := seqs, cnt := { s.cnt with txDrop := drops }, cmdErr := err, irqStatus := irq,
    now := notes } := by
  unfold State.autoAux
  split
  · exact encodeFrame_frame _ _ _ _
  · exact ⟨s.txFifo, s.seqTx, s.cnt.txDrop, s.cmdErr, s.irqStatus, s.now, rfl⟩

/-- ANALYZE with a legal configuration, but for its automatic frames: the new history, the images, TICK_CNT (R402). -/
theorem execAnalyze_legal (s : State) (h : s.AnalyzeLegal) :
    ∃ t, exec .analyze s = .next t
      ∧ t = ((s.analyzeTick Config.num.fn).autoFeature.autoAux).finishCommand
      ∧ t.dsp = s.tickHistory Config.num.fn
      ∧ t.mem = memWriteBytes (memWriteBytes s.mem featImgBase (s.tickFeat Config.num.fn)) auxImgBase
          (s.tickAux Config.num.fn)
      ∧ t.tickCnt = s.tickCnt + 1#32 := by
  refine ⟨_, rfl, ?_, ?_⟩
  · unfold State.analyze
    rw [analyzeCheck_none s h]
  · unfold State.analyze
    rw [analyzeCheck_none s h]
    simp only
    obtain ⟨_, _, _, _, _, _, e1⟩ := autoAux_frame ((s.analyzeTick Config.num.fn).autoFeature)
    obtain ⟨_, _, _, _, _, _, e2⟩ := autoFeature_frame (s.analyzeTick Config.num.fn)
    rw [e1, e2]
    exact ⟨rfl, rfl, rfl⟩

/-- The bytes of the FEATURE image after a tick are the FEATURE fields (R320). -/
theorem memRead_feat (m : Memory) (feat aux : List Byte) (hf : feat.length = 68) (k : Nat) (hk : k < 68) :
    memRead (memWriteBytes (memWriteBytes m featImgBase feat) auxImgBase aux) (0x600 + k) = feat.getD k 0#8 := by
  rw [memRead_writeBytes_outside _ _ (by unfold auxImgBase; omega)]
  exact memRead_writeBytes_inside feat m featImgBase k (by omega)

/-- The bytes of the AUX image after a tick are the AUX fields (R322). -/
theorem memRead_aux (m : Memory) (feat aux : List Byte) (ha : aux.length = 36) (k : Nat) (hk : k < 36) :
    memRead (memWriteBytes (memWriteBytes m featImgBase feat) auxImgBase aux) (0x680 + k) = aux.getD k 0#8 :=
  memRead_writeBytes_inside aux _ auxImgBase k (by omega)

/-- Every other byte is as before. -/
theorem memRead_outside_images (m : Memory) (feat aux : List Byte) (hf : feat.length = 68) (ha : aux.length = 36)
    (a : Nat) (h1 : ¬ (0x600 ≤ a ∧ a < 0x644)) (h2 : ¬ (0x680 ≤ a ∧ a < 0x6A4)) :
    memRead (memWriteBytes (memWriteBytes m featImgBase feat) auxImgBase aux) a = memRead m a := by
  rw [memRead_writeBytes_outside _ _ (by unfold auxImgBase; omega),
    memRead_writeBytes_outside _ _ (by unfold featImgBase; omega)]

/-! ### Magnitudes -/

theorem mag_eq (s : State) (b : Nat) (h : b < s.param.nBins) : s.mag b = s.magnitude b := by
  unfold State.mag State.bin State.magnitude
  rw [if_pos h]; rfl

theorem fsum_eq (acc : F32) (xs : List F32) : fsum acc xs = xs.foldl fadd acc := by
  induction xs generalizing acc with
  | nil => rfl
  | cons x xs ih => exact ih _

theorem sumSquares_eq (m : Nat → F32) (acc : F32) (b n : Nat) :
    sumSquares m acc b n = ((List.range' b n).map (fun b => fmul (m b) (m b))).foldl fadd acc := by
  induction n generalizing acc b with
  | zero => rfl
  | succ n ih => rw [List.range'_succ, List.map_cons, List.foldl_cons]; exact ih _ _

end Sys2Proof.Machine
end

