-- ==== Sys2Proof/Laws/Crc.lean ====
section
/-! SUPPORT. The CRC register (45_frame_encoder.md R650): what goes in comes apart again. -/

namespace Sys2Proof.Machine

theorem crcFrom_append (c : BitVec 16) (as bs : List Byte) : crcFrom c (as ++ bs) = crcFrom (crcFrom c as) bs := by
  induction as generalizing c with
  | nil => rfl
  | cons a as ih => exact ih _

theorem crcShifts_succ (n : Nat) (c : BitVec 16) : crcShifts (n + 1) c = crcShifts n (crcShift c) := rfl

/-- The bit that a shift brings in tells whether the polynomial was added. -/
theorem crcShift_lsb (c : BitVec 16) : (crcShift c).getLsbD 0 = c.msb := by
  unfold crcShift
  cases h : c.msb <;> simp

/-- The other bits of a shift. -/
theorem crcShift_bit (c : BitVec 16) (k : Nat) (h : k + 1 < 16) :
    (crcShift c).getLsbD (k + 1) = (c.getLsbD k != (c.msb && (0x1021#16).getLsbD (k + 1))) := by
  unfold crcShift
  cases hm : c.msb <;> simp [h] <;> rfl

end Sys2Proof.Machine
end

