-- ==== Sys2Proof/Laws/Registers.lean ====
section
/-! SUPPORT. Where each register of the map stands (10_state.md R100): one lemma an offset or array, so that no proof
searches the map. -/

namespace Sys2Proof.Machine

theorem regAt_single {n : Nat} {r : Reg} (h : singleRegs.lookup n = some r) : regAt n = r := by
  unfold regAt; rw [h]

@[simp] theorem regAt_id : regAt 0x000 = .id := regAt_single rfl
@[simp] theorem regAt_param : regAt 0x004 = .param := regAt_single rfl
@[simp] theorem regAt_ctrl : regAt 0x008 = .ctrl := regAt_single rfl
@[simp] theorem regAt_status : regAt 0x00C = .status := regAt_single rfl
@[simp] theorem regAt_cmd : regAt 0x010 = .cmd := regAt_single rfl
@[simp] theorem regAt_irqStatus : regAt 0x014 = .irqStatus := regAt_single rfl
@[simp] theorem regAt_irqEnable : regAt 0x018 = .irqEnable := regAt_single rfl
@[simp] theorem regAt_cmdErr : regAt 0x01C = .cmdErr := regAt_single rfl
@[simp] theorem regAt_decErr : regAt 0x020 = .decErr := regAt_single rfl
@[simp] theorem regAt_staleTimeout : regAt 0x024 = .staleTimeout := regAt_single rfl
@[simp] theorem regAt_txLevel : regAt 0x028 = .txLevel := regAt_single rfl
@[simp] theorem regAt_txData : regAt 0x02C = .txData := regAt_single rfl
@[simp] theorem regAt_rxPush : regAt 0x030 = .rxPush := regAt_single rfl
@[simp] theorem regAt_txCmd : regAt 0x034 = .txCmd := regAt_single rfl
@[simp] theorem regAt_seqTx : regAt 0x038 = .seqTx := regAt_single rfl
@[simp] theorem regAt_seqRx : regAt 0x03C = .seqRx := regAt_single rfl
@[simp] theorem regAt_tickCnt : regAt 0x040 = .tickCnt := regAt_single rfl
@[simp] theorem regAt_cntRxOk : regAt 0x044 = .cntRxOk := regAt_single rfl
@[simp] theorem regAt_cntLenErr : regAt 0x048 = .cntLenErr := regAt_single rfl
@[simp] theorem regAt_cntFrameErr : regAt 0x04C = .cntFrameErr := regAt_single rfl
@[simp] theorem regAt_cntCrcErr : regAt 0x050 = .cntCrcErr := regAt_single rfl
@[simp] theorem regAt_cntStale : regAt 0x054 = .cntStale := regAt_single rfl
@[simp] theorem regAt_cntTxDrop : regAt 0x058 = .cntTxDrop := regAt_single rfl
@[simp] theorem regAt_susN : regAt 0x150 = .susN := regAt_single rfl
@[simp] theorem regAt_dbgOnset : regAt 0x96C = .dbgOnset := regAt_single rfl
@[simp] theorem regAt_dbgNote : regAt 0x970 = .dbgNote := regAt_single rfl
@[simp] theorem regAt_dbgSustain : regAt 0x974 = .dbgSustain := regAt_single rfl
@[simp] theorem regAt_dbgDec : regAt 0x978 = .dbgDec := regAt_single rfl

/-- The offsets of the one-word registers lie in three runs. -/
theorem singleRegs_runs : ∀ p ∈ singleRegs,
    p.1 ≤ 0x58 ∨ (0x100 ≤ p.1 ∧ p.1 ≤ 0x18C) ∨ (0x960 ≤ p.1 ∧ p.1 ≤ 0x978) := by
  decide

theorem lookup_none {l : List (Nat × Reg)} {n : Nat} (h : ∀ p ∈ l, p.1 ≠ n) : l.lookup n = none := by
  induction l with
  | nil => rfl
  | cons p l ih =>
    rw [List.lookup_cons]
    have hp : (n == p.1) = false := by simpa using Ne.symm (h p (by simp))
    rw [hp]
    exact ih (fun q hq => h q (by simp [hq]))

/-- Outside those runs the array registers decide. -/
theorem regAt_array {n : Nat} (h1 : 0x58 < n) (h2 : n < 0x100 ∨ 0x18C < n) (h3 : n < 0x960 ∨ 0x978 < n) :
    regAt n = firstReg (arrayRegs n) := by
  unfold regAt
  rw [lookup_none]
  intro p hp e
  have := singleRegs_runs p hp
  omega

theorem inArray_no {base n : Nat} (mk : Fin n → Reg) {off : Nat} (h : off < base ∨ base + 4 * n ≤ off) :
    inArray base n mk off = none := by
  unfold inArray
  rw [dif_neg]
  omega

theorem inArray_at {base n : Nat} (mk : Fin n → Reg) (i : Fin n) : inArray base n mk (base + 4 * i.val) = some (mk i) := by
  unfold inArray
  have h : base ≤ base + 4 * i.val ∧ (base + 4 * i.val - base) / 4 < n := by have := i.isLt; omega
  rw [dif_pos h]
  congr 2
  apply Fin.ext
  show (base + 4 * i.val - base) / 4 = i.val
  omega

@[simp] theorem regAt_bandRange (i : Fin 12) : regAt (0x1C0 + 4 * i.val) = .bandRange i := by
  have := i.isLt
  rw [regAt_array (by omega) (by omega) (by omega)]
  simp only [arrayRegs, inArray_at, firstReg]
@[simp] theorem regAt_tilt (i : Fin 12) : regAt (0x200 + 4 * i.val) = .tilt i := by
  have := i.isLt
  rw [regAt_array (by omega) (by omega) (by omega)]
  simp only [arrayRegs]
  rw [inArray_no, inArray_at]
  · rfl
  · omega
@[simp] theorem regAt_pclassLut (w : Fin 128) : regAt (0x400 + 4 * w.val) = .pclassLut w := by
  have := w.isLt
  rw [regAt_array (by omega) (by omega) (by omega)]
  simp only [arrayRegs]
  iterate 2 rw [inArray_no (h := by omega)]
  rw [inArray_at]; rfl
@[simp] theorem regAt_featImg (w : Fin 17) : regAt (0x600 + 4 * w.val) = .featImg w := by
  have := w.isLt
  rw [regAt_array (by omega) (by omega) (by omega)]
  simp only [arrayRegs]
  iterate 3 rw [inArray_no (h := by omega)]
  rw [inArray_at]; rfl
@[simp] theorem regAt_auxImg (w : Fin 9) : regAt (0x680 + 4 * w.val) = .auxImg w := by
  have := w.isLt
  rw [regAt_array (by omega) (by omega) (by omega)]
  simp only [arrayRegs]
  iterate 4 rw [inArray_no (h := by omega)]
  rw [inArray_at]; rfl
@[simp] theorem regAt_rxFeat (w : Fin 17) : regAt (0x700 + 4 * w.val) = .rxFeat w := by
  have := w.isLt
  rw [regAt_array (by omega) (by omega) (by omega)]
  simp only [arrayRegs]
  iterate 5 rw [inArray_no (h := by omega)]
  rw [inArray_at]; rfl
@[simp] theorem regAt_rxCmd (w : Fin 17) : regAt (0x780 + 4 * w.val) = .rxCmd w := by
  have := w.isLt
  rw [regAt_array (by omega) (by omega) (by omega)]
  simp only [arrayRegs]
  iterate 6 rw [inArray_no (h := by omega)]
  rw [inArray_at]; rfl
@[simp] theorem regAt_rxAux (w : Fin 9) : regAt (0x800 + 4 * w.val) = .rxAux w := by
  have := w.isLt
  rw [regAt_array (by omega) (by omega) (by omega)]
  simp only [arrayRegs]
  iterate 7 rw [inArray_no (h := by omega)]
  rw [inArray_at]; rfl
@[simp] theorem regAt_txRaw (w : Fin 17) : regAt (0x880 + 4 * w.val) = .txRaw w := by
  have := w.isLt
  rw [regAt_array (by omega) (by omega) (by omega)]
  simp only [arrayRegs]
  iterate 8 rw [inArray_no (h := by omega)]
  rw [inArray_at]; rfl
@[simp] theorem regAt_dbgChromaSm (p : Fin 12) : regAt (0x900 + 4 * p.val) = .dbgChromaSm p := by
  have := p.isLt
  rw [regAt_array (by omega) (by omega) (by omega)]
  simp only [arrayRegs]
  iterate 9 rw [inArray_no (h := by omega)]
  rw [inArray_at]; rfl
@[simp] theorem regAt_dbgVisLevel (i : Fin 12) : regAt (0x930 + 4 * i.val) = .dbgVisLevel i := by
  have := i.isLt
  rw [regAt_array (by omega) (by omega) (by omega)]
  simp only [arrayRegs]
  iterate 10 rw [inArray_no (h := by omega)]
  rw [inArray_at]; rfl
@[simp] theorem regAt_dbgDecBuf (w : Fin 19) : regAt (0xA00 + 4 * w.val) = .dbgDecBuf w := by
  have := w.isLt
  rw [regAt_array (by omega) (by omega) (by omega)]
  simp only [arrayRegs]
  iterate 11 rw [inArray_no (h := by omega)]
  rw [inArray_at]; rfl
@[simp] theorem regAt_bin (b : Fin 1024) : regAt (0x1000 + 4 * b.val) = .bin b := by
  have := b.isLt
  rw [regAt_array (by omega) (by omega) (by omega)]
  simp only [arrayRegs]
  iterate 12 rw [inArray_no (h := by omega)]
  rw [inArray_at]; rfl

end Sys2Proof.Machine
end

