-- ==== Sys2Proof/Laws/Cycle.lean ====
section
/-! SUPPORT. The steps of a clock cycle (20_memory.md R220), each said once. -/

namespace Sys2Proof.Machine

@[simp] theorem andThen_next (s : State) (f : State → Host.Outcome State Fault Refusal) :
    andThen (.next s) f = f s := rfl

/-- What a sequence of two steps answers, when it answers a next state. -/
theorem andThen_eq_next {o : Host.Outcome State Fault Refusal} {f : State → Host.Outcome State Fault Refusal}
    {t : State} : andThen o f = .next t ↔ ∃ u, o = .next u ∧ f u = .next t := by
  cases o with
  | next s => simp [andThen]
  | fault r => simp [andThen]
  | refused r => simp [andThen]

theorem step_eq (s : State) : step s = runCycle s.cycleNow s.startCycle := rfl

/-- Past the end of the script a cycle has no input, and the free value of `T_CMD` decides about the completion (R12). -/
theorem cycleNow_past {s : State} (h : s.script = []) :
    s.cycleNow = { Cycle.quiet with complete := Config.completesIn s.clk } := by
  simp only [State.cycleNow, h]

/-- A cycle without input ends with the engine's step. -/
@[simp] theorem restOfCycle_quiet (complete : Bool) (s : State) :
    restOfCycle { Cycle.quiet with complete := complete } s = .next s := rfl

/-- The completion step is never put off for ever (R401). -/
theorem completesIn_fair (n : Nat) : ∃ m, n ≤ m ∧ Config.completesIn m = true := Config.completion.fair n

/-- Every instruction answers a next state. -/
theorem exec_next (i : Instr) (s : State) : ∃ t, exec i s = .next t := by
  cases i <;> exact ⟨_, rfl⟩

@[simp] theorem engineStep_false (s : State) : engineStep false s = .next s := rfl

theorem engineStep_idle (complete : Bool) (s : State) (h : s.pending = none) : engineStep complete s = .next s := by
  unfold engineStep
  cases complete with
  | false => rfl
  | true => rw [h]

/-- The command engine's step never stops. -/
theorem engineStep_next (complete : Bool) (s : State) : ∃ t, engineStep complete s = .next t := by
  cases complete with
  | false => exact ⟨s, rfl⟩
  | true =>
    cases h : s.pending with
    | none => exact ⟨s, engineStep_idle true s h⟩
    | some p =>
      unfold engineStep
      rw [h]
      simp only
      cases decodeCommand p.op p.typ with
      | ok i => exact exec_next i s
      | error e => exact ⟨_, rfl⟩

theorem ite_ne {α : Type} {c : Prop} [Decidable c] {a b x : α} (ha : a ≠ x) (hb : b ≠ x) :
    (if c then a else b) ≠ x := by
  split
  · exact ha
  · exact hb

/-- The commands are the instructions a command word decodes to: no frame is one. -/
theorem decodeCommand_not_frame (op : Byte) (typ : BitVec 2) (t : FrameType) (seq : Byte) (payload : List Byte)
    (crc : BitVec 16) (eof : Byte) : decodeCommand op typ ≠ .ok (mkFrame t seq payload crc eof) := by
  unfold decodeCommand
  cases t <;>
    (repeat' refine ite_ne ?_ ?_) <;> (intro h; cases h)

/-- A host access with the error response changes nothing else (R205). -/
theorem hostAccess_bad_read (a : BitVec 13) (w : AccessWidth) (s : State) (h : goodAccess a w = false) :
    hostAccess (.read a w) s = .next (s.answered 0#32 true) := by
  unfold hostAccess
  simp only [h, Bool.false_eq_true, if_false]
  rfl

theorem hostAccess_bad_write (a : BitVec 13) (w : AccessWidth) (d : Word) (s : State) (h : goodAccess a w = false) :
    hostAccess (.write a w d) s = .next (s.answered 0#32 true) := by
  unfold hostAccess
  simp only [h, Bool.false_eq_true, if_false]
  rfl

/-- An aligned word write goes to the register, with the bus response given first (R202). -/
theorem hostAccess_write (a : BitVec 13) (d : Word) (s : State) (h : a.toNat % 4 = 0) :
    hostAccess (.write a .word d) s = (s.answered 0#32 false).writeReg (regAt a.toNat) d := by
  unfold hostAccess goodAccess
  simp only [h, beq_self_eq_true, Bool.and_self, if_true]
  rfl

/-- An aligned word read returns the register's value for the current state (R201). -/
theorem hostAccess_read (a : BitVec 13) (s : State) (h : a.toNat % 4 = 0) :
    hostAccess (.read a .word) s = .next ((s.afterRead (regAt a.toNat)).answered (s.readAt a.toNat) false) := by
  unfold hostAccess goodAccess
  simp only [h, beq_self_eq_true, Bool.and_self, if_true]
  rfl

/-- A write with the engine empty is not refused (R140). -/
theorem writeReg_idle (s : State) (r : Reg) (w : Word) (h : s.pending = none) : s.writeReg r w = s.storeReg w r := by
  unfold State.writeReg State.busy
  rw [h]
  simp

/-- A write to a register the engine does not own is never refused (R140). -/
theorem writeReg_free (s : State) (r : Reg) (w : Word) (h : r.engineOwned = false) : s.writeReg r w = s.storeReg w r := by
  unfold State.writeReg
  rw [h]
  simp

end Sys2Proof.Machine
end

