-- ==== Sys2Proof/Laws/PerInstr.lean ====
section
/-! SUPPORT. Facts about every instruction, one lemma a constructor: the shape of its encoding (30_encoding.md R300,
R310, R311). -/

namespace Sys2Proof.Laws.EncodeShape

/-- A command is four bytes that do not begin with SOF; a frame is 75 or 43 bytes that do. -/
def Statement (i : Instr) : Prop :=
  i.wf = true →
    ((encode i).length = 4 ∧ (encode i).head? ≠ some sofByte)
    ∨ (((encode i).length = 75 ∨ (encode i).length = 43) ∧ (encode i).head? = some sofByte)

theorem nop : Statement .nop := fun _ => .inl (by decide)
theorem analyze : Statement .analyze := fun _ => .inl (by decide)
theorem sendFeature : Statement .sendFeature := fun _ => .inl (by decide)
theorem sendAux : Statement .sendAux := fun _ => .inl (by decide)
theorem sendCommand : Statement .sendCommand := fun _ => .inl (by decide)
theorem sendRawFeature : Statement .sendRawFeature := fun _ => .inl (by decide)
theorem sendRawCommand : Statement .sendRawCommand := fun _ => .inl (by decide)
theorem sendRawAux : Statement .sendRawAux := fun _ => .inl (by decide)
theorem resetDsp : Statement .resetDsp := fun _ => .inl (by decide)
theorem resetDecoder : Statement .resetDecoder := fun _ => .inl (by decide)
theorem clearCounters : Statement .clearCounters := fun _ => .inl (by decide)
theorem resetSeq : Statement .resetSeq := fun _ => .inl (by decide)
theorem flushTx : Statement .flushTx := fun _ => .inl (by decide)

/-- The length of a frame's bytes. -/
theorem frameBytes_length (t : FrameType) (seq : Byte) (payload : List Byte) (crc : BitVec 16) (eof : Byte) :
    (frameBytes t seq payload crc eof).length = payload.length + 7 := by
  simp [frameBytes]

theorem frameFeature (seq : Byte) (payload : List Byte) (crc : BitVec 16) (eof : Byte) :
    Statement (.frameFeature seq payload crc eof) := by
  intro h
  have hp : payload.length = 68 := by simpa [Instr.wf, payloadFits, FrameType.len] using h
  exact .inr ⟨.inl (by rw [encode, frameBytes_length, hp]), rfl⟩

theorem frameCommand (seq : Byte) (payload : List Byte) (crc : BitVec 16) (eof : Byte) :
    Statement (.frameCommand seq payload crc eof) := by
  intro h
  have hp : payload.length = 68 := by simpa [Instr.wf, payloadFits, FrameType.len] using h
  exact .inr ⟨.inl (by rw [encode, frameBytes_length, hp]), rfl⟩

theorem frameAux (seq : Byte) (payload : List Byte) (crc : BitVec 16) (eof : Byte) :
    Statement (.frameAux seq payload crc eof) := by
  intro h
  have hp : payload.length = 36 := by simpa [Instr.wf, payloadFits, FrameType.len] using h
  exact .inr ⟨.inr (by rw [encode, frameBytes_length, hp]), rfl⟩

end Sys2Proof.Laws.EncodeShape
end

