-- ==== Sys2Proof/Tests/Slice0.lean ====
section
/-! SUPPORT. Tests: ill-formed instructions, decoding of words written out from the spec, one small step an instruction
with the expected values of the spec's examples and of 95_test_vectors.md, and for every statement with hypotheses a
state and operands that meet them. -/

namespace Sys2Proof.Tests

set_option Elab.async false

open Sys2Proof Sys2Proof.Machine

/-! ## Helpers -/

/-- The state after an instruction. -/
def after (i : Instr) (s : State) : State :=
  match exec i s with
  | .next t => t
  | _ => s

/-- The state after a cycle with the given inputs. -/
def afterCycle (c : Cycle) (s : State) : State :=
  match step { s with script := [c] } with
  | .next t => t
  | _ => s

/-- Byte `k` is `k`, for 36 bytes (the payload of R660, example 3). -/
def ramp : List Byte := (List.range 36).map (BitVec.ofNat 8)

/-- `n` zero bytes. -/
def zeros (n : Nat) : List Byte := List.replicate n 0x00#8

/-- Reset, with words written to memory. -/
def withWords (ws : List (Nat × Word)) : State :=
  { State.reset with mem := ws.foldl (fun m w => memWriteWord m w.1 w.2) [] }

/-- A decoder that holds the given bytes, with the port as its source. -/
def holding (bs : List Byte) : State :=
  { State.reset with
    ctrl := { Ctrl.reset with rxEn := true }
    dec := Decoder.reset.withBytes bs }

/-! ## Well-formedness: what the check refuses -/

theorem test_illformed_feature : (Instr.frameFeature 0#8 (zeros 67) 0#16 0xBB#8).wf = false := by decide
theorem test_illformed_command : (Instr.frameCommand 0#8 (zeros 36) 0#16 0xBB#8).wf = false := by decide
theorem test_illformed_aux : (Instr.frameAux 0#8 (zeros 68) 0#16 0xBB#8).wf = false := by decide
theorem test_wellformed_aux : (Instr.frameAux 0#8 ramp 0#16 0x00#8).wf = true := by decide

/-! ## Decoding words written out from R300, R301, R310 -/

theorem test_decode_nop : decode [0x00#8, 0#8, 0#8, 0#8] = .ok (.nop, []) := by decide
theorem test_decode_analyze : decode [0x01#8, 0#8, 0#8, 0#8] = .ok (.analyze, []) := by decide
theorem test_decode_sendFeature : decode [0x02#8, 0#8, 0#8, 0#8] = .ok (.sendFeature, []) := by decide
theorem test_decode_sendAux : decode [0x03#8, 0#8, 0#8, 0#8] = .ok (.sendAux, []) := by decide
theorem test_decode_sendCommand : decode [0x04#8, 0x03#8, 0#8, 0#8] = .ok (.sendCommand, []) := by decide
theorem test_decode_sendRawFeature : decode [0x05#8, 0x01#8, 0#8, 0#8] = .ok (.sendRawFeature, []) := by decide
theorem test_decode_sendRawCommand : decode [0x05#8, 0x02#8, 0#8, 0#8] = .ok (.sendRawCommand, []) := by decide
theorem test_decode_sendRawAux : decode [0x05#8, 0xFF#8, 0xFF#8, 0xFF#8] = .ok (.sendRawAux, []) := by decide
theorem test_decode_sendRawZero : decode [0x05#8, 0x00#8, 0#8, 0#8] = .error .rawTypeZero := by decide
theorem test_decode_resetDsp : decode [0x06#8, 0#8, 0#8, 0#8] = .ok (.resetDsp, []) := by decide
theorem test_decode_resetDecoder : decode [0x07#8, 0#8, 0#8, 0#8] = .ok (.resetDecoder, []) := by decide
theorem test_decode_clearCounters : decode [0x08#8, 0#8, 0#8, 0#8] = .ok (.clearCounters, []) := by decide
theorem test_decode_resetSeq : decode [0x09#8, 0#8, 0#8, 0#8] = .ok (.resetSeq, []) := by decide
theorem test_decode_flushTx : decode [0x0A#8, 0#8, 0#8, 0#8] = .ok (.flushTx, []) := by decide
theorem test_decode_reserved : decode [0x0B#8, 0#8, 0#8, 0#8] = .error (.reservedOpcode 0x0B#8) := by decide
theorem test_decode_frameFeature :
    decode ([0xAA#8, 0x01#8, 0x05#8, 0x44#8] ++ zeros 68 ++ [0xEC#8, 0xFC#8, 0xBB#8])
      = .ok (.frameFeature 0x05#8 (zeros 68) 0xFCEC#16 0xBB#8, []) := by decide +kernel
theorem test_decode_frameCommand :
    decode ([0xAA#8, 0x02#8, 0x00#8, 0x44#8] ++ zeros 68 ++ [0x84#8, 0xC7#8, 0xBB#8])
      = .ok (.frameCommand 0x00#8 (zeros 68) 0xC784#16 0xBB#8, []) := by decide +kernel
theorem test_decode_frameAux :
    decode ([0xAA#8, 0x03#8, 0x00#8, 0x24#8] ++ ramp ++ [0x11#8, 0x7E#8, 0xBB#8])
      = .ok (.frameAux 0x00#8 ramp 0x7E11#16 0xBB#8, []) := by decide +kernel
theorem test_decode_lengthMismatch :
    decode ([0xAA#8, 0x03#8, 0x00#8, 0x44#8] ++ zeros 71) = .error (.lengthMismatch 0x03#8 0x44#8) := by decide +kernel
theorem test_decodeTableWord_sendRawAux : decodeTableWord 32 0x305 = some .sendRawAux := by decide +kernel

/-! ## CRC16: the values of R651 -/

theorem test_crc_empty : crc16 [] = 0xFFFF#16 := by decide
theorem test_crc_01 : crc16 [0x01#8] = 0xF1D1#16 := by decide +kernel
theorem test_crc_header : crc16 [0x01#8, 0x00#8, 0x44#8] = 0xF3EC#16 := by decide +kernel
theorem test_crc_check : crc16 [0x31#8, 0x32#8, 0x33#8, 0x34#8, 0x35#8, 0x36#8, 0x37#8, 0x38#8, 0x39#8] = 0x29B1#16 := by
  decide +kernel

/-! ## One step of each command -/

/-- R409. -/
theorem test_nop : after .nop State.reset = { State.reset with irqStatus := 0x01#7, now := ⟨0x01#7, false⟩ } := by
  decide +kernel

/-- R659, example 1. -/
theorem test_sendFeature_reset :
    (after .sendFeature State.reset).txFifo = [0xAA#8, 0x01#8, 0x00#8, 0x44#8] ++ zeros 50 ++ [0xFF#8] ++ zeros 14
      ++ [0xFF#8, 0x00#8, 0x00#8, 0x8A#8, 0x9A#8, 0xBB#8] := by decide +kernel
/-- R404, R655: no room for 75 bytes. -/
theorem test_sendFeature_overflow :
    (after .sendFeature { State.reset with txFifo := List.replicate 182 0x55#8 }).cmdErr = 0x00010205#32 := by
  decide +kernel

/-- R660, example 1. -/
theorem test_sendAux_reset :
    (after .sendAux State.reset).txFifo
      = [0xAA#8, 0x03#8, 0x00#8, 0x24#8] ++ zeros 36 ++ [0x24#8, 0x06#8, 0xBB#8] := by decide +kernel
/-- R660, example 2. -/
theorem test_sendAux_second : (after .sendAux State.reset).seqTx = ⟨0x00#8, 0x00#8, 0x01#8⟩ := by decide +kernel

/-- R405 and R659, example 3. -/
theorem test_sendCommand :
    (after .sendCommand { State.reset with txCmd := txCmdOfWord 0x00801F41#32 }).txFifo
      = [0xAA#8, 0x02#8, 0x00#8, 0x44#8, 0x41#8, 0x1F#8, 0x80#8] ++ zeros 65 ++ [0x40#8, 0x0F#8, 0xBB#8] := by
  decide +kernel

/-- R659, example 2: the trailer with sequence byte 5. -/
theorem test_sendRawFeature :
    (after .sendRawFeature { State.reset with seqTx := ⟨5#8, 0#8, 0#8⟩ }).txFifo.drop 72 = [0xEC#8, 0xFC#8, 0xBB#8] := by
  decide +kernel

/-- R659, example 3: an all-zero COMMAND payload. -/
theorem test_sendRawCommand : (after .sendRawCommand State.reset).txFifo.drop 72 = [0x84#8, 0xC7#8, 0xBB#8] := by
  decide +kernel

/-- R660, example 3. -/
theorem test_sendRawAux :
    (after .sendRawAux { State.reset with mem := memWriteBytes [] 0x880 ramp }).txFifo
      = [0xAA#8, 0x03#8, 0x00#8, 0x24#8] ++ ramp ++ [0x11#8, 0x7E#8, 0xBB#8] := by decide +kernel

/-- R407, example: `env` and `since_onset` return to their reset values. -/
theorem test_resetDsp :
    (after .resetDsp { State.reset with dsp := { DspHistory.reset with env := 0x3F000000#32, sinceOnset := 3#16 } }).dsp
      = DspHistory.reset := by decide +kernel
/-- R127: byte 50 of FEAT_IMG. -/
theorem test_resetDsp_image :
    memRead (after .resetDsp { State.reset with mem := memWriteBytes [] 0x632 [0x05#8] }).mem 0x632 = 0xFF#8 := by
  decide +kernel

/-- R408, example. -/
theorem test_resetDecoder : (after .resetDecoder (holding (zeros 10))).dec = Decoder.reset := by decide +kernel

/-- R411, example. -/
theorem test_clearCounters :
    (after .clearCounters { State.reset with cnt := { Counters.zero with crcErr := 1#32 }, decErr := 3#32 }).cnt
      = Counters.zero := by decide +kernel

/-- R412, example. -/
theorem test_resetSeq :
    (after .resetSeq { State.reset with seqTx := ⟨0x03#8, 0x0A#8, 0x05#8⟩ }).readAt 0x038 = 0#32 := by decide +kernel

/-- R413, example. -/
theorem test_flushTx : (after .flushTx { State.reset with txFifo := zeros 75 }).readAt 0x028 = 0#32 := by decide +kernel

/-! ## Frames -/

/-- R660, example 3, received. -/
theorem test_frameAux_delivered : (after (.frameAux 0#8 ramp 0x7E11#16 0xBB#8) (holding [])).bytesAt 0x800 36 = ramp := by
  decide +kernel
/-- R705: a wrong EOF byte, with BLEN = 43 and TYPE = 3. -/
theorem test_frameAux_badEof :
    (after (.frameAux 0#8 ramp 0x7E11#16 0x00#8)
      (holding ([0xAA#8, 0x03#8, 0x00#8, 0x24#8] ++ ramp ++ [0x11#8, 0x7E#8, 0x00#8]))).decErr = 0x00032B02#32 := by
  decide +kernel
/-- R659, example 2, received. -/
theorem test_frameFeature_delivered :
    (after (.frameFeature 5#8 (zeros 68) 0xFCEC#16 0xBB#8) (holding [])).irqStatus = 0x04#7 := by decide +kernel
/-- R706: a wrong CRC. -/
theorem test_frameFeature_badCrc :
    (after (.frameFeature 5#8 (zeros 68) 0xFCED#16 0xBB#8) (holding [])).cnt.crcErr = 1#32 := by decide +kernel
/-- R659, example 3, received. -/
theorem test_frameCommand_delivered :
    (after (.frameCommand 9#8 (zeros 68) (crc16 ([0x02#8, 9#8, 0x44#8] ++ zeros 68)) 0xBB#8) (holding [])).seqRx.command
      = 9#8 := by decide +kernel
/-- R704, example: a doubled SOF. -/
theorem test_doubled_sof :
    (afterCycle (rxCycle 0x00#8) (holding [0xAA#8, 0xAA#8, 0x03#8])).dec.bytes = [0xAA#8, 0x03#8, 0x00#8] := by
  decide +kernel

/-! ## ANALYZE, stage by stage -/

/-- R451, R452, R453, example: bins 4 and 5 hold 3.0 and 4.0, band (4, 5), TILT 2.0. -/
theorem test_band_raw :
    bandRaw { DspConfig.reset with
        bandRange := DspConfig.reset.bandRange.set 0 ⟨4#10, 5#10⟩
        tilt := DspConfig.reset.tilt.set 0 0x40000000#32 }
      (fun b => if b = 4 then 0x40400000#32 else if b = 5 then 0x40800000#32 else 0#32) 0 = 0x40E24630#32 := by
  decide +kernel
theorem test_band_smooth : smooth 0x3E19999A#32 0x40C05543#32 0x40E24630#32 = 0x40DD2EDA#32 := by decide +kernel
/-- R503, R505, example: class 9 at 1.0, class 10 at 0.5. -/
theorem test_chroma :
    chromaBytes DspConfig.reset #v[0, 0, 0, 0, 0, 0, 0, 0, 0, 0x3F800000#32, 0x3F000000#32, 0]
      = #v[0, 0, 0, 0, 0, 0, 0, 0, 0, 255#8, 128#8, 0] := by decide +kernel
/-- R504, R505, example: eleven classes at 1.0 and class 3 at 2.0. -/
theorem test_pitch :
    dominantPitch DspConfig.reset (vec12 (fun p => if p = 3 then 0x40000000#32 else 0x3F800000#32)) = (3#8, 84#8) := by
  decide +kernel
/-- R552, R553, R554, example: the second tick of the trace of R562. -/
theorem test_envelope :
    let cfg := { DspConfig.reset with
      vocRange := ⟨1#10, 1#10⟩, tun := { Tunables.reset with attack := 0x3F000000#32, onsetThr := 0x3E4CCCCD#32 } }
    let h := envelopeStep cfg (fun b => if b = 1 then 0x3F800000#32 else 0#32)
      { DspHistory.reset with floorSeeded := true }
    (h.nfloor, h.env, q8 h.env) = (0x3BA3D700#32, 0x3EFEB852#32, 127#8) := by decide +kernel
/-- V-VO-3: sustain exit. -/
theorem test_sustain_exit :
    sustainExit { DspConfig.reset with tun := { Tunables.reset with susRelease := 0x3DCCCCCD#32 } } 0x3D000000#32
      { DspHistory.reset with susActive := true, susPc := 4#8 } = { DspHistory.reset with susPc := 4#8 } := by
  decide +kernel
/-- R602, example (V-PK-1). -/
theorem test_peak :
    peakFreq 512 (fun b => if b = 9 then 0x3F000000#32 else if b = 10 then 0x3F800000#32
      else if b = 11 then 0x3F400000#32 else 0#32) ⟨1#10, 20#10⟩ 0x422C4400#32 10 = 438#16 := by decide +kernel
/-- R603, example, with the correctly rounded `log1p(10)` and `log1p(100)`. -/
theorem test_peak_magnitude :
    q8 (logCompress (fun x => if x = 0x42C80000#32 then 0x4093AF11#32 else 0x4019771E#32) 0x42C80000#32 0x3DCCCCCD#32)
      = 132#8 := by decide +kernel
/-- R604, example. -/
theorem test_visual_blend : visBlend 0x00000000#32 0x3F800000#32 = 0x3E99999A#32 := by decide +kernel
/-- R606, example. -/
theorem test_global_level :
    q8 (globalLevel 12 (vec12 (fun i => if i = 5 then 0x3E99999A#32 else 0#32))) = 22#8 := by decide +kernel
/-- V-AN-5: an illegal CH_RANGE. -/
theorem test_analyze_refused :
    (after .analyze { State.reset with cfg := { DspConfig.reset with chRange := ⟨1#10, 0#10⟩ } }).cmdErr
      = 0x000C0103#32 := by decide +kernel
/-- R402: ANALYZE from reset seeds the noise floor. -/
theorem test_analyze_reset : (after .analyze State.reset).dsp.floorSeeded = true := by decide +kernel

/-! ## Numerics -/

theorem test_q8_half : q8 0x3F000000#32 = 128#8 := by decide +kernel
theorem test_str8 : str8 0x3FEC4EC4#32 = 84#8 := by decide +kernel
theorem test_hz16 : hz16 0x43DAEBC0#32 = 438#16 := by decide +kernel
theorem test_div_zero : fdiv 0xBF800000#32 0x00000000#32 = 0xFF800000#32 := by decide +kernel
theorem test_sub_beta : fsub 0x3F800000#32 0x3F7EB852#32 = 0x3BA3D700#32 := by decide +kernel
theorem test_visual_weights : fadd 0x3F333333#32 0x3E99999A#32 = 0x3F800000#32 := by decide +kernel

/-! ## The host bus and the cycle -/

/-- V-CMD-5: a second CMD write while busy. -/
theorem test_cmd_busy :
    (afterCycle { Cycle.quiet with host := some (.write 0x010#13 .word 0x00000003#32) }
      { State.reset with pending := some ⟨0x01#8, 0#2⟩ }).cmdErr = 0x00000302#32 := by decide +kernel
/-- R104: NBANDS is WARL. -/
theorem test_nbands_warl :
    (afterCycle { Cycle.quiet with host := some (.write 0x008#13 .word 0x00000D01#32) } State.reset).readAt 0x008
      = 0x00000C01#32 := by decide +kernel
/-- R121: SUS_N. -/
theorem test_susN :
    (afterCycle { Cycle.quiet with host := some (.write 0x150#13 .word 0x00000100#32) } State.reset).readAt 0x150
      = 1#32 := by decide +kernel
/-- R720: the twentieth strobe clears the buffer. -/
theorem test_stale :
    (afterCycle { Cycle.quiet with tbTick := true }
      { holding [0xAA#8] with dec := { Decoder.reset.withBytes [0xAA#8] with staleCnt := 19#16 } }).cnt.stale = 1#32 := by
  decide +kernel
/-- R302: a reserved opcode, through `withFetchWord` and one step. -/
theorem test_step_reserved :
    (match step (State.reset.withFetchWord 32 0x0B) with | .next t => t.cmdErr | _ => 0#32) = 0x00000B01#32 := by
  decide +kernel
/-- A frame row of the table, through `withFetchWord` and one step: zeros behind the header are no valid frame. -/
theorem test_step_frame :
    (match step (State.reset.withFetchWord 32 0x240003AA) with | .next t => t.cnt.frameErr | _ => 0#32) = 1#32 := by
  decide +kernel

/-! ## Witnesses: for each statement with hypotheses, a state and operands that meet them -/

/-- A script of one cycle. -/
def scripted (c : Cycle) (s : State) : State := { s with script := [c] }

/-- A pending command. -/
def issued (op : Byte) (typ : BitVec 2) (s : State) : State := { s with pending := some { op := op, typ := typ } }

theorem witness_DecodeEncodeRoundTrip :
    (Instr.frameAux 0xAA#8 ramp 0xBBAA#16 0x00#8).wf = true ∧ Instr.nop.wf = true
      ∧ (Instr.frameFeature 0#8 (zeros 68) 0#16 0xBB#8).wf = true
      ∧ (Instr.frameCommand 0#8 (zeros 68) 0#16 0xBB#8).wf = true := by decide
theorem witness_EncodeDecodedFrame :
    decodeFrame ([0xAA#8, 0x03#8, 0x07#8, 0x24#8] ++ ramp ++ [0x01#8, 0x02#8, 0x03#8, 0x04#8])
      = .ok (.frameAux 0x07#8 ramp 0x0201#16 0x03#8, [0x04#8]) := by decide +kernel
/-- Equal OPs with different other bits; OP 5 with equal TYPE; the first and last illegal OP, and TYPE = 0. -/
theorem witness_CommandWords :
    (0xFFFFFC01#32).extractLsb' 0 8 = (0x00000301#32).extractLsb' 0 8 ∧ (0x01#8 : Byte) ≠ 0x05#8
      ∧ (0xFFFFFD05#32).extractLsb' 8 2 = (0x00000105#32).extractLsb' 8 2
      ∧ 0x0B#8 ≤ (0x0000000B#32).extractLsb' 0 8 ∧ 0x0B#8 ≤ (0x000000FF#32).extractLsb' 0 8
      ∧ ((0x00000405#32).extractLsb' 0 8 = 0x05#8 ∧ (0x00000405#32).extractLsb' 8 2 = 0#2)
      ∧ ¬ (0x0B#8 ≤ (0x0000000A#32).extractLsb' 0 8) ∧ State.reset.pending = none := by decide +kernel
theorem witness_UnknownHeadersSpellNoFrame :
    ¬ ((0x01#8 = 0x01#8 ∧ 36#8 = 68#8) ∨ (0x01#8 = 0x02#8 ∧ 36#8 = 68#8) ∨ (0x01#8 = 0x03#8 ∧ 36#8 = 36#8))
      ∧ ¬ ((0x04#8 = 0x01#8 ∧ 36#8 = 68#8) ∨ (0x04#8 = 0x02#8 ∧ 36#8 = 68#8) ∨ (0x04#8 = 0x03#8 ∧ 36#8 = 36#8)) := by
  decide
theorem witness_StepRunsPendingCommand :
    (scripted { Cycle.quiet with complete := true } (issued 0x05#8 3#2 State.reset)).cycleNow.rst = false
      ∧ (scripted { Cycle.quiet with complete := true } (issued 0x05#8 3#2 State.reset)).cycleNow.complete = true
      ∧ (issued 0x05#8 3#2 State.reset).pending = some { op := opField 0x305#32, typ := typeField 0x305#32 }
      ∧ decode (bytesOfWord 0x305#32) = .ok (.sendRawAux, []) := by decide +kernel
/-- The last byte of the frame of R660, example 3, arrives. -/
theorem witness_StepRunsReceivedFrame :
    let s := scripted (rxCycle 0xBB#8) (holding ([0xAA#8, 0x03#8, 0x00#8, 0x24#8] ++ ramp ++ [0x11#8, 0x7E#8]))
    s.DecoderInv ∧ s.cycleNow.rst = false ∧ s.cycleNow.complete = false ∧ s.cycleNow.host = none
      ∧ s.cycleNow.rx = some 0xBB#8 ∧ s.ctrl.rxEn = true ∧ s.ctrl.rxSrc = false ∧ s.dec.dstate = .accumulating
      ∧ decode (s.dec.bytes ++ [0xBB#8]) = .ok (.frameAux 0x00#8 ramp 0x7E11#16 0xBB#8, []) := by decide +kernel
theorem witness_QuietCycleChangesNothing :
    (scripted Cycle.quiet (issued 0x01#8 0#2 State.reset)).cycleNow = Cycle.quiet := by decide
theorem witness_CompletionComesFirst :
    let c (a : BitVec 13) := { Cycle.quiet with complete := true, host := some (.write a .word 0x7F#32) }
    let s (a : BitVec 13) := scripted (c a) (issued 0x00#8 0#2 State.reset)
    (s 0x010#13).DecoderInv ∧ (s 0x010#13).cycleNow.rst = false ∧ (s 0x010#13).cycleNow.complete = true
      ∧ (s 0x010#13).pending = some ⟨0x00#8, 0#2⟩ ∧ (s 0x010#13).cycleNow.host = some (.write 0x010#13 .word 0x7F#32)
      ∧ (s 0x014#13).cycleNow.host = some (.write 0x014#13 .word 0x7F#32) := by decide +kernel
/-- The other pairs of steps of one cycle: completion and `rx`, completion and `tx`, a CTRL write and `rx` or `tx`, a
STALE_TIMEOUT write and `tb_tick`. -/
theorem witness_CompletionComesFirst_order :
    let p := scripted { Cycle.quiet with complete := true, rx := some 0xAA#8 } (issued 0x07#8 0#2 (holding [0xAA#8]))
    let q := scripted { Cycle.quiet with complete := true, txReady := true } (issued 0x03#8 0#2 State.reset)
    let c := scripted { Cycle.quiet with host := some (.write 0x008#13 .word 0xC01#32), rx := some 0xAA#8 } State.reset
    let f := scripted { Cycle.quiet with host := some (.write 0x008#13 .word 0xC10#32), txReady := true }
      { State.reset with txFifo := [0xAA#8, 0x03#8] }
    let k := scripted { Cycle.quiet with host := some (.write 0x024#13 .word 0x1#32), tbTick := true } (holding [0xAA#8])
    (p.cycleNow = { Cycle.quiet with complete := true, rx := some 0xAA#8 } ∧ p.pending = some ⟨0x07#8, 0#2⟩
        ∧ p.ctrl.rxEn = true ∧ p.ctrl.rxSrc = false)
      ∧ (q.cycleNow = { Cycle.quiet with complete := true, txReady := true } ∧ q.pending = some ⟨0x03#8, 0#2⟩
        ∧ q.ctrl.txSink = false ∧ q.txFifo = [] ∧ 43 ≤ q.param.txqDepth)
      ∧ (c.pending = none ∧ (0xC01#32).getLsbD 0 = true ∧ (0xC01#32).getLsbD 3 = false
        ∧ c.cycleNow = { Cycle.quiet with host := some (.write 0x008#13 .word 0xC01#32), rx := some 0xAA#8 })
      ∧ (f.pending = none ∧ f.txFifo = 0xAA#8 :: [0x03#8] ∧ (0xC10#32).getLsbD 4 = true
        ∧ f.cycleNow = { Cycle.quiet with host := some (.write 0x008#13 .word 0xC10#32), txReady := true })
      ∧ (k.dec.dstate = .accumulating ∧ (0x1#32).extractLsb' 0 16 ≠ 0#16
        ∧ ((0x1#32).extractLsb' 0 16).toNat ≤ min (k.dec.staleCnt.toNat + 1) 65535
        ∧ ¬ ((0x2#32).extractLsb' 0 16).toNat ≤ min (k.dec.staleCnt.toNat + 1) 65535
        ∧ k.cycleNow = { Cycle.quiet with host := some (.write 0x024#13 .word 0x1#32), tbTick := true }) := by
  decide +kernel
theorem witness_ResetCycle :
    (scripted { Cycle.quiet with rst := true } State.reset).cycleNow.rst = true
      ∧ (scripted { Cycle.quiet with rst := true } State.reset).cycleNow.host = none
      ∧ (scripted { Cycle.quiet with rst := true, host := some (.read 0#13 .byte) } State.reset).cycleNow.host
        = some (.read 0#13 .byte) := by decide
theorem witness_legal_instances :
    Param.Legal ⟨1, 118⟩ ∧ Param.Legal ⟨1024, 65535⟩ ∧ Param.Legal State.reset.param := by decide
/-- Exactly 75 and 43 bytes free, one byte less, and an overfull FIFO. -/
theorem witness_SendsFrame :
    (0x44#8 : Byte).toNat + 7 ≤ 256 - (zeros 181).length ∧ 256 - (zeros 182).length < (0x44#8 : Byte).toNat + 7
      ∧ (0x24#8 : Byte).toNat + 7 ≤ 256 - (zeros 213).length ∧ 256 - (zeros 214).length < (0x24#8 : Byte).toNat + 7
      ∧ 256 - (zeros 300).length < (0x24#8 : Byte).toNat + 7 := by decide +kernel
theorem witness_SendRawSends : (issued 0x05#8 0#2 State.reset).pending = some { op := 0x05#8, typ := 0#2 } := by decide
theorem witness_CrcDetectsOneByte : (0x00#8 : Byte) ≠ 0x01#8 := by decide

/-- Reset with another configuration. -/
def configured (c : DspConfig) : State := { State.reset with cfg := c }

/-- Band 0 good and band 1 with LO > HI; band 0 with HI = N_BINS. -/
theorem witness_AnalyzeRefusals_band :
    let s := configured { DspConfig.reset with bandRange := DspConfig.reset.bandRange.set 1 ⟨1#10, 0#10⟩ }
    (1 : Fin 12).val < s.ctrl.nbands.toNat ∧ ¬ RangeLegal s.param.nBins s.cfg.bandRange[(1 : Fin 12)]
      ∧ (∀ j : Fin 12, j < 1 → RangeLegal s.param.nBins s.cfg.bandRange[j]) ∧ ¬ RangeLegal 512 ⟨0#10, 512#10⟩
      ∧ RangeLegal 512 ⟨511#10, 511#10⟩ := by decide +kernel
theorem witness_AnalyzeRefusals_chroma :
    let s := configured { DspConfig.reset with chRange := ⟨1#10, 0#10⟩ }
    s.ctrl.nbands ≤ 12#4 ∧ s.BandsLegal ∧ ¬ RangeLegal s.param.nBins s.cfg.chRange := by decide +kernel
theorem witness_AnalyzeRefusals_vocal :
    let s := configured { DspConfig.reset with vocRange := ⟨0#10, 512#10⟩ }
    s.ctrl.nbands ≤ 12#4 ∧ s.BandsLegal ∧ RangeLegal s.param.nBins s.cfg.chRange
      ∧ ¬ RangeLegal s.param.nBins s.cfg.vocRange := by decide +kernel
theorem witness_AnalyzeRefusals_peak :
    let s := configured { DspConfig.reset with pkRange := ⟨0#10, 1023#10⟩ }
    s.ctrl.nbands ≤ 12#4 ∧ s.BandsLegal ∧ RangeLegal s.param.nBins s.cfg.chRange
      ∧ RangeLegal s.param.nBins s.cfg.vocRange ∧ ¬ RangeLegal s.param.nBins s.cfg.pkRange := by decide +kernel
theorem witness_AnalyzeRefusals_mask :
    let s := configured { DspConfig.reset with trebMask := 0x800#12, midMask := 0x800#12 }
    s.ctrl.nbands ≤ 12#4 ∧ s.BandsLegal ∧ RangeLegal s.param.nBins s.cfg.chRange
      ∧ RangeLegal s.param.nBins s.cfg.vocRange ∧ RangeLegal s.param.nBins s.cfg.pkRange ∧ ¬ s.MasksDisjoint := by
  decide +kernel
/-- Every statement about a completed ANALYZE: reset meets the hypothesis. -/
theorem witness_AnalyzeLegal : State.reset.AnalyzeLegal := by decide +kernel
/-- Both automatic frames, with exactly 118, 75 and 43 bytes free and with one byte less. -/
theorem witness_AnalyzeAutomaticFrames :
    let s (n : Nat) := { State.reset with
      ctrl := { Ctrl.reset with autoFeat := true, autoAux := true }, txFifo := zeros n }
    (s 138).AnalyzeLegal ∧ 118 ≤ (s 138).param.txqDepth - (s 138).txFifo.length
      ∧ (s 139).param.txqDepth - (s 139).txFifo.length < 118
      ∧ 75 ≤ (s 181).param.txqDepth - (s 181).txFifo.length
      ∧ (s 182).param.txqDepth - (s 182).txFifo.length < 75
      ∧ 43 ≤ (s 213).param.txqDepth - (s 213).txFifo.length
      ∧ (s 214).param.txqDepth - (s 214).txFifo.length < 43 := by decide +kernel
/-- One automatic frame alone, with exactly 75 and 43 bytes free and with one byte less; the gate is open. -/
theorem witness_AnalyzeAutomaticFrames_single :
    let s (feat aux : Bool) (n : Nat) := { withWords [(0x1000, 0x3F800000#32)] with
      ctrl := { Ctrl.reset with autoFeat := feat, autoAux := aux }, txFifo := zeros n }
    (s true false 182).AnalyzeLegal ∧ (s false true 214).AnalyzeLegal
      ∧ (s true false 182).activeList.any (fun i => fgt (s true false 182).tickBandSm[i] 0x00000000#32) = true
      ∧ 75 ≤ (s true false 181).param.txqDepth - (s true false 181).txFifo.length
      ∧ (s true false 182).param.txqDepth - (s true false 182).txFifo.length < 75
      ∧ 43 ≤ (s false true 213).param.txqDepth - (s false true 213).txFifo.length
      ∧ (s false true 214).param.txqDepth - (s false true 214).txFifo.length < 43 := by decide +kernel
/-- The silence gate is open for a tick that reads 1.0 in bin 0, and closed in silence. -/
theorem witness_AnalyzeAutomaticFrames_gate :
    (withWords [(0x1000, 0x3F800000#32)]).AnalyzeLegal
      ∧ (withWords [(0x1000, 0x3F800000#32)]).activeList.any (fun i =>
          fgt (withWords [(0x1000, 0x3F800000#32)]).tickBandSm[i] 0x00000000#32) = true
      ∧ State.reset.activeList.any (fun i => fgt State.reset.tickBandSm[i] 0x00000000#32) = false := by
  decide +kernel
/-- Three active bands: band 2 is the last active one, band 3 the first inactive one. -/
theorem witness_AnalyzeBandEnergies :
    let s := { State.reset with ctrl := { Ctrl.reset with nbands := 3#4 } }
    s.AnalyzeLegal ∧ (2 : Fin 12).val < s.ctrl.nbands.toNat ∧ s.ctrl.nbands.toNat ≤ (3 : Fin 12).val := by
  decide +kernel
/-- A NaN in class 0, and a tone in class 9 that is reported. -/
theorem witness_AnalyzePitch :
    fIsNaN (smooth 0x00000000#32 0x7F800000#32 0x00000000#32) = true
      ∧ dominantPitch DspConfig.reset (vec12 (fun p => if p = 9 then 0x3F800000#32 else 0#32)) = (9#8, 255#8)
      ∧ dominantPitch DspConfig.reset (vec12 (fun _ => 0#32)) = (255#8, 0#8) := by decide +kernel
/-- The first two ticks with bin 0 at 1.0 behind a seeded floor: rising, an onset; unchanged, none. -/
theorem witness_AnalyzeOnset :
    let s := { withWords [(0x1000, 0x3F800000#32)] with dsp := { DspHistory.reset with floorSeeded := true } }
    s.AnalyzeLegal ∧ s.tickVocal.2 = true ∧ State.reset.AnalyzeLegal ∧ State.reset.tickVocal.2 = false := by
  decide +kernel
/-- One tick before the refractory interval ends. -/
theorem witness_AnalyzeOnset_debounced :
    let s := { configured { DspConfig.reset with refract := 4#16 } with dsp := { DspHistory.reset with sinceOnset := 2#16 } }
    s.AnalyzeLegal ∧ s.dsp.sinceOnset.toNat + 1 < s.cfg.refract.toNat := by decide +kernel
/-- The candidate run: same class, another class, none; SUS_N just reached and not yet reached. -/
theorem witness_AnalyzeSustain :
    let cfg := { DspConfig.reset with susN := 3#8 }
    let h := { DspHistory.reset with candPc := 9#8, candCnt := 2#8 }
    (sustainCandidate cfg 0x3F800000#32 9#8 h).candCnt = 3#8
      ∧ (sustainEnter cfg (sustainCandidate cfg 0x3F800000#32 9#8 h)).susActive = true
      ∧ (sustainCandidate cfg 0x3F800000#32 8#8 h).candCnt = 1#8
      ∧ (sustainEnter cfg (sustainCandidate cfg 0x3F800000#32 8#8 h)).susActive = false
      ∧ (sustainCandidate cfg 0x00000000#32 9#8 h).candPc = 255#8 := by decide +kernel
/-- Each branch of the note rule, the window at its last tick and one past it. -/
theorem witness_AnalyzeNote :
    let cfg := { DspConfig.reset with postWin := 2#8, noteMinStr := 50#8 }
    let h (n : BitVec 16) (b : Bool) := { DspHistory.reset with sinceOnset := n, susActive := b, susPc := 4#8 }
    (attributeNote cfg true 9#8 50#8 (h 0#16 false)).note = 9#8
      ∧ (attributeNote cfg true 9#8 49#8 (h 0#16 false)).note = 255#8
      ∧ (attributeNote cfg false 9#8 50#8 (h 2#16 false)).note = 9#8
      ∧ (attributeNote cfg false 9#8 49#8 (h 2#16 false)).note = 255#8
      ∧ (attributeNote cfg false 9#8 50#8 (h 3#16 true)).note = 4#8
      ∧ (attributeNote cfg false 9#8 50#8 (h 3#16 false)).note = 255#8 := by decide +kernel
theorem witness_VisualLevelsStayUnit :
    (∀ i : Fin 12, inUnit (scripted Cycle.quiet State.reset).dsp.vis[i] = true)
      ∧ (match step (scripted Cycle.quiet State.reset) with | .next _ => true | _ => false) = true := by decide +kernel
theorem witness_FramesAreDelivered : (zeros 68).length = 68 ∧ ramp.length = 36 := by decide
theorem witness_BadFramesAreRejected :
    (0x00#8 : Byte) ≠ 0xBB#8 ∧ 0x0000#16 ≠ crc16 (0x03#8 :: 0#8 :: 0x24#8 :: ramp)
      ∧ 0x0000#16 ≠ crc16 (0x01#8 :: 0#8 :: 0x44#8 :: zeros 68) ∧ 0x0000#16 ≠ crc16 (0x02#8 :: 0#8 :: 0x44#8 :: zeros 68) := by
  decide +kernel
/-- SOF at index 1, SOF at the last index, and none. -/
theorem witness_ResyncKeepsFromFirstSof :
    let s (bs : List Byte) := holding bs
    (s [0xAA#8, 0xAA#8, 0xAA#8]).dec.blen ≤ 75 ∧ (s [0xAA#8, 0xAA#8, 0xAA#8]).dec.dbuf.toList.getD 1 0#8 = 0xAA#8
      ∧ (s [0xAA#8, 0x00#8, 0xAA#8]).dec.dbuf.toList.getD 2 0#8 = 0xAA#8
      ∧ (s [0xAA#8, 0x00#8, 0xAA#8]).dec.dbuf.toList.getD 1 0#8 ≠ 0xAA#8
      ∧ (s [0xAA#8, 0x00#8]).dec.dbuf.toList.getD 1 0#8 ≠ 0xAA#8 ∧ (s [0xAA#8, 0x00#8]).dec.blen = 2 := by
  decide +kernel
/-- Seeking; two bytes buffered; a known header at the fourth byte; a frame one byte short of the last; an unknown
header at the fourth byte. -/
theorem witness_DecoderByteStep :
    (holding []).dec.dstate = .seekingSof ∧ (holding []).dec.blen = 0
      ∧ ((holding [0xAA#8, 0x03#8]).dec.Inv ∧ (holding [0xAA#8, 0x03#8]).dec.dstate = .accumulating
          ∧ (holding [0xAA#8, 0x03#8]).dec.blen + 1 < 4)
      ∧ ((holding [0xAA#8, 0x03#8, 0x00#8]).dec.Inv
          ∧ knownHeader ((holding [0xAA#8, 0x03#8, 0x00#8]).dec.withNext 0x24#8).dbuf[1]
              ((holding [0xAA#8, 0x03#8, 0x00#8]).dec.withNext 0x24#8).dbuf[3] = some .aux)
      ∧ ((holding ([0xAA#8, 0x03#8, 0x00#8, 0x24#8] ++ zeros 37)).dec.Inv
          ∧ (holding ([0xAA#8, 0x03#8, 0x00#8, 0x24#8] ++ zeros 37)).dec.blen + 1 < FrameType.aux.len + 7)
      ∧ ((holding [0xAA#8, 0x03#8, 0x00#8]).dec.blen = 3
          ∧ knownHeader ((holding [0xAA#8, 0x03#8, 0x00#8]).dec.withNext 0x44#8).dbuf[1]
              ((holding [0xAA#8, 0x03#8, 0x00#8]).dec.withNext 0x44#8).dbuf[3] = none) := by decide +kernel
/-- Port and RX_PUSH as the source, and neither. -/
theorem witness_DecoderByteStep_sources :
    let s (e r : Bool) := { State.reset with ctrl := { Ctrl.reset with rxEn := e, rxSrc := r } }
    ((s true false).ctrl.rxEn = true ∧ (s true false).ctrl.rxSrc = false)
      ∧ ((s true true).ctrl.rxEn = true ∧ (s true true).ctrl.rxSrc = true) ∧ (s false true).ctrl.rxEn = false := by decide
theorem witness_EncodedFrameIsDecoded :
    let s := { holding [] with script := (wireFrame 0x03#8 0xAA#8 0x24#8 ramp).map rxCycle ++ [Cycle.quiet] }
    s.DecoderInv ∧ s.dec.dstate = .seekingSof ∧ s.ctrl.rxEn = true ∧ s.ctrl.rxSrc = false
      ∧ ramp.length = FrameType.aux.len
      ∧ s.script = (wireFrame (frameCode .aux) 0xAA#8 (frameLenByte .aux) ramp).map rxCycle ++ [Cycle.quiet] := by
  decide +kernel
/-- A byte taken; seeking; the timeout off; one strobe before the timeout and at it; a byte and a strobe together. -/
theorem witness_StaleTimeout :
    let s (n : BitVec 16) := { holding [0xAA#8] with dec := { Decoder.reset.withBytes [0xAA#8] with staleCnt := n } }
    (s 0#16).noteByte.now.byteTaken = true ∧ State.reset.dec.dstate = .seekingSof
      ∧ { State.reset with staleTimeout := 0#16 }.staleTimeout = 0#16
      ∧ ((s 18#16).now.byteTaken = false ∧ (s 18#16).dec.dstate = .accumulating ∧ (s 18#16).staleTimeout ≠ 0#16
          ∧ min ((s 18#16).dec.staleCnt.toNat + 1) 65535 < (s 18#16).staleTimeout.toNat)
      ∧ (s 19#16).staleTimeout.toNat ≤ min ((s 19#16).dec.staleCnt.toNat + 1) 65535
      ∧ (scripted { Cycle.quiet with rx := some 0x03#8, tbTick := true } (s 0#16)).DecoderInv
      ∧ (scripted { Cycle.quiet with rx := some 0x03#8, tbTick := true } (s 0#16)).cycleNow
          = { Cycle.quiet with rx := some 0x03#8, tbTick := true } := by decide +kernel
/-- A state that meets every invariant and steps on: a frame half received, a command pending, a byte arriving. -/
theorem witness_invariants :
    let s := scripted (rxCycle 0x03#8) (issued 0x01#8 0#2 (holding [0xAA#8]))
    s.Inv ∧ (match step s with | .next t => decide t.DecoderInv | _ => false) = true := by decide +kernel
theorem witness_ResetIsSafe : State.reset.Inv := by decide +kernel
theorem witness_PendingCommandSeesItsConfiguration :
    let s := scripted { Cycle.quiet with host := some (.write 0x008#13 .word 0#32) } (issued 0x01#8 0#2 State.reset)
    s.cycleNow.rst = false ∧ s.cycleNow.complete = false ∧ s.pending ≠ none
      ∧ (match step s with | .next t => t.readAt 0x01C | _ => 0#32) = 0x00000006#32 := by decide +kernel
theorem witness_TickCountCountsAnalyze :
    let s := scripted { Cycle.quiet with complete := true } (issued 0x00#8 0#2 State.reset)
    s.cycleNow.rst = false ∧ (match step s with | .next _ => true | _ => false) = true := by decide +kernel
/-- The first and the last aligned offset, TX_DATA with a byte and without, a misaligned and a narrow access. -/
theorem witness_HostReadsAndBusErrors :
    (0x0000#13).toNat % 4 = 0 ∧ (0x1FFC#13).toNat % 4 = 0 ∧ ¬ (0x1FFC#13 = 0x02C#13 ∧ Ctrl.reset.txSink = true)
      ∧ { Ctrl.reset with txSink := true }.txSink = true ∧ { State.reset with txFifo := [0xAA#8] }.txFifo = 0xAA#8 :: []
      ∧ State.reset.txFifo = [] ∧ (0x1FFD#13).toNat % 4 ≠ 0 ∧ AccessWidth.half ≠ .word := by decide +kernel
theorem witness_BusyWrites :
    (issued 0x01#8 0#2 State.reset).pending ≠ none ∧ ownedSpace (0x008#13).toNat = true
      ∧ ownedSpace (0x1FFC#13).toNat = true ∧ ownedSpace (0x010#13).toNat = false ∧ State.reset.pending = none
      ∧ (0x1FFC#13).toNat % 4 = 0 ∧ (0x010#13).toNat % 4 = 0 := by decide +kernel
/-- NBANDS written as 1, 12, 0 and 13; a band range that changes and one that does not. -/
theorem witness_RegroupingWrites :
    State.reset.pending = none ∧ (0x100#32).extractLsb' 8 4 = 1#4 ∧ (0xC00#32).extractLsb' 8 4 = 12#4
      ∧ ((0x000#32).extractLsb' 8 4).toNat = 0 ∧ ((0xD00#32).extractLsb' 8 4).toNat = 13
      ∧ State.reset.cfg.bandRange[(11 : Fin 12)] ≠ { lo := (1#32).extractLsb' 0 10, hi := (1#32).extractLsb' 16 10 }
      ∧ State.reset.cfg.bandRange[(0 : Fin 12)] = { lo := (0#32).extractLsb' 0 10, hi := (0#32).extractLsb' 16 10 } := by
  decide +kernel
theorem witness_RegistersStore :
    State.reset.pending = none ∧ (0x100, 0xFFFFFFFF#32) ∈ plainRegisters ∧ (0x18C, 0x00000FFF#32) ∈ plainRegisters
      ∧ 0x1FFC < 0x2000 ∧ 0x1FFC % 4 = 0 ∧ 0x1FFC ≠ 0x18C := by decide +kernel
/-- The first and last word of each window, and the first word of BIN RAM past `N_BINS`. -/
theorem witness_WindowsStore :
    State.reset.pending = none ∧ (0x400, 128) ∈ [(0x400, 128), (0x880, 17), (0x1000, 1024)] ∧ 127 < 128
      ∧ (0x880, 17) ∈ [(0x400, 128), (0x880, 17), (0x1000, 1024)] ∧ 16 < 17
      ∧ (0x1000, 1024) ∈ [(0x400, 128), (0x880, 17), (0x1000, 1024)] ∧ State.reset.param.nBins ≤ 512 ∧ 512 < 1024
      ∧ ¬ (0x1000 = 0x1000 ∧ State.reset.param.nBins ≤ 511) := by decide +kernel
theorem witness_ReservedAndReadOnly :
    (0x05C#13).toNat % 4 = 0 ∧ reservedSpace (0x05C#13).toNat = true ∧ reservedSpace (0xFFC#13).toNat = true
      ∧ readOnlySpace (0x000#13).toNat = true ∧ readOnlySpace (0xA48#13).toNat = true := by decide +kernel
theorem witness_TxPortDrains :
    let s (f : List Byte) (k : Bool) := scripted { Cycle.quiet with txReady := true }
      { State.reset with txFifo := f, ctrl := { Ctrl.reset with txSink := k } }
    (s [0xAA#8] false).cycleNow = { Cycle.quiet with txReady := true } ∧ (s [0xAA#8] false).ctrl.txSink = false
      ∧ (s [0xAA#8] false).txFifo = 0xAA#8 :: [] ∧ (s [0xAA#8] true).ctrl.txSink = true ∧ (s [] false).txFifo = [] := by
  decide +kernel
theorem witness_StatusAndDebugRegisters :
    State.reset.dec.blen ≤ 75 ∧ (holding (zeros 74)).dec.blen ≤ 75 ∧ State.reset.txFifo.length < 65536
      ∧ (0x880, 17) ∈ [(0x400, 128), (0x600, 17), (0x680, 9), (0x700, 17), (0x780, 17), (0x800, 9), (0x880, 17)]
      ∧ State.reset.param.nBins < 2048 ∧ State.reset.param.txqDepth < 65536 ∧ 511 < State.reset.param.nBins ∧ ¬ 512 < State.reset.param.nBins := by decide +kernel
/-- A command pending with no input to come; and with a byte and a CMD write still to come. -/
theorem witness_PendingCommandCompletes :
    (issued 0x01#8 0#2 State.reset).script = [] ∧ (issued 0x01#8 0#2 State.reset).pending = some ⟨0x01#8, 0#2⟩
      ∧ (scripted { rxCycle 0x03#8 with host := some (.write 0x010#13 .word 0#32) }
          (issued 0x01#8 0#2 (holding [0xAA#8]))).DecoderInv := by decide +kernel
/-- The largest finite value rounds to itself; a tie; one unit with a sticky bit. -/
theorem witness_RoundingIsNearest :
    froundMag ((2 ^ 24 - 1) * 2 ^ 253) 0 false = 0x7F7FFFFF ∧ fIsFinite 0x7F7FFFFF#32 = true
      ∧ froundMag (2 ^ 25 + 2) 0 false % 2 = 0 ∧ froundMag 1 1 true = froundMag 3 2 false := by decide +kernel
/-- Finite operands: the largest value, the smallest, a zero of each sign, an exact zero difference. -/
theorem witness_RoundingIsNearest_operators :
    fIsFinite 0x7F7FFFFF#32 = true ∧ fIsFinite 0x80000001#32 = true ∧ fIsFinite 0x80000000#32 = true
      ∧ fmagBits 0x80000001#32 ≠ 0 ∧ fsign 0x7F7FFFFF#32 = false ∧ unitsOf 0x3F800000#32 - unitsOf 0x3F800000#32 = 0
      ∧ unitsOf 0x80000001#32 = -1 ∧ 2 ^ 24 - 1 < 2 ^ 24 := by decide +kernel
/-- For each clause of the conversions a value on its side of the boundary. -/
theorem witness_Conversions :
    fgt 0x80000000#32 0x00000000#32 = false
      ∧ (fgt 0x3F800000#32 0x00000000#32 = true ∧ fge (fmul 0x3F800000#32 0x437F0000#32) 0x437F0000#32 = true)
      ∧ (fgt 0x3F7FFFFE#32 0x00000000#32 = true ∧ fge (fmul 0x3F7FFFFE#32 0x437F0000#32) 0x437F0000#32 = false)
      ∧ fge 0x477FFF00#32 0x477FFF00#32 = true
      ∧ (fgt 0x477FFEFF#32 0x00000000#32 = true ∧ fge 0x477FFEFF#32 0x477FFF00#32 = false)
      ∧ fgt (fmul (fsub 0x3F800000#32 0x3F800000#32) 0x42C80000#32) 0x00000000#32 = false
      ∧ fge (fmul (fsub 0x41000000#32 0x3F800000#32) 0x42C80000#32) 0x437F0000#32 = true
      ∧ (fgt (fmul (fsub 0x3FEC4EC4#32 0x3F800000#32) 0x42C80000#32) 0x00000000#32 = true
          ∧ fge (fmul (fsub 0x3FEC4EC4#32 0x3F800000#32) 0x42C80000#32) 0x437F0000#32 = false) := by decide +kernel
theorem witness_SpecialValues :
    fIsNaN 0x7F800001#32 = true ∧ (fIsFinite 0x80000001#32 = true ∧ fmagBits 0x80000001#32 ≠ 0 ∧ fsign 0x80000001#32 = true)
      ∧ (inUnit 0x3F800000#32 = true ∧ fgt 0x3F800000#32 0x00000000#32 = true) ∧ fgt 0x3F800001#32 0x3F800000#32 = true
      ∧ (fIsFinite 0x00000001#32 = true ∧ fgt 0x00000001#32 0x00000000#32 = true)
      ∧ ¬ (fIsFinite 0x7F800000#32 = true ∧ fgt 0x7F800000#32 0x00000000#32 = true)
      ∧ fmagBits 0x80000000#32 = 0 ∧ fIsInf 0x7F800000#32 = true ∧ fIsInf 0xFF800000#32 = true
      ∧ fIsNaN 0xFF800000#32 = false ∧ fgt 0x80000000#32 0x00000000#32 = false := by decide +kernel

end Sys2Proof.Tests
end

section
/-! # The cycle and the command engine: quiet cycles, completion by fairness (R12, R211, R401) -/

namespace Sys2Proof.Machine

/-! ### Cycles without input -/

/-- In a cycle without input the engine's step is all that happens (R220). -/
theorem step_of_quiet_inputs {s : State} {complete : Bool}
    (h : s.cycleNow = { Cycle.quiet with complete := complete }) : step s = engineStep complete s.startCycle := by
  obtain ⟨t, ht⟩ := engineStep_next complete s.startCycle
  rw [step_eq, h, ht]
  show andThen (engineStep complete s.startCycle) _ = _
  rw [ht, andThen_next, restOfCycle_quiet]

/-- Settles O8: of a quiet cycle only its beginning is left. -/
theorem quietCycleChangesNothing : Obligations.QuietCycleChangesNothing := by
  unfold Obligations.QuietCycleChangesNothing
  intro s h
  calc step s = engineStep false s.startCycle := step_of_quiet_inputs h
    _ = .next s.startCycle := engineStep_false _

/-! ### What the engine's completion step leaves -/

/-- `t` has the script and CTRL of `s`, and its decoder is that of `s` or the initial one: what a command may do to the
receiving side (R408), and all that a host write may do to it but for CTRL and RX_PUSH. -/
structure KeepsRx (s t : State) : Prop where
  script : t.script = s.script
  ctrl : t.ctrl = s.ctrl
  dec : t.dec = s.dec ∨ t.dec = Decoder.reset

theorem encodeFrame_keepsRx (s : State) (opcode : Byte) (t : FrameType) (payload : List Byte) :
    KeepsRx s (s.encodeFrame opcode t payload) := by
  obtain ⟨_, _, _, _, _, _, e⟩ := encodeFrame_frame s opcode t payload
  rw [e]
  exact ⟨rfl, rfl, .inl rfl⟩

theorem analyze_keepsRx (s : State) (log1p : F32 → F32) : KeepsRx s (s.analyze log1p) := by
  unfold State.analyze
  split
  · exact ⟨rfl, rfl, .inl rfl⟩
  · obtain ⟨_, _, _, _, _, _, e1⟩ := autoFeature_frame (s.analyzeTick log1p)
    obtain ⟨_, _, _, _, _, _, e2⟩ := autoAux_frame (s.analyzeTick log1p).autoFeature
    rw [e2, e1]
    exact ⟨rfl, rfl, .inl rfl⟩

theorem clearDsp_keepsRx (s : State) : KeepsRx s s.clearDsp :=
  ⟨clearDsp_script s, clearDsp_ctrl s, .inl (clearDsp_dec s)⟩

/-- A command ends with the end of every command (R401), after a change that keeps the receiving side. -/
theorem exec_command {op : Byte} {typ : BitVec 2} {i : Instr} (h : decodeCommand op typ = .ok i) (s : State) :
    ∃ u, exec i s = .next u.finishCommand ∧ KeepsRx s u := by
  cases i with
  | nop => exact ⟨_, rfl, rfl, rfl, .inl rfl⟩
  | analyze => exact ⟨_, rfl, analyze_keepsRx s _⟩
  | sendFeature => exact ⟨_, rfl, encodeFrame_keepsRx s _ _ _⟩
  | sendAux => exact ⟨_, rfl, encodeFrame_keepsRx s _ _ _⟩
  | sendCommand => exact ⟨_, rfl, encodeFrame_keepsRx s _ _ _⟩
  | sendRawFeature => exact ⟨_, rfl, encodeFrame_keepsRx s _ _ _⟩
  | sendRawCommand => exact ⟨_, rfl, encodeFrame_keepsRx s _ _ _⟩
  | sendRawAux => exact ⟨_, rfl, encodeFrame_keepsRx s _ _ _⟩
  | resetDsp => exact ⟨s.clearDsp, rfl, clearDsp_keepsRx s⟩
  | resetDecoder => exact ⟨_, rfl, rfl, rfl, .inr rfl⟩
  | clearCounters => exact ⟨_, rfl, rfl, rfl, .inl rfl⟩
  | resetSeq => exact ⟨_, rfl, rfl, rfl, .inl rfl⟩
  | flushTx => exact ⟨_, rfl, rfl, rfl, .inl rfl⟩
  | frameFeature seq payload crc eof => exact absurd h (decodeCommand_not_frame op typ .feature seq payload crc eof)
  | frameCommand seq payload crc eof => exact absurd h (decodeCommand_not_frame op typ .command seq payload crc eof)
  | frameAux seq payload crc eof => exact absurd h (decodeCommand_not_frame op typ .aux seq payload crc eof)

/-- The completion step of a pending command, legal or not, ends with the end of every command (R302, R401). -/
theorem engineStep_completes {s : State} {p : CmdWord} (hp : s.pending = some p) :
    ∃ u, engineStep true s = .next u.finishCommand ∧ KeepsRx s u := by
  unfold engineStep
  rw [hp]
  cases h : decodeCommand p.op p.typ with
  | ok i => simpa only [h] using exec_command h s
  | error e => exact ⟨s.raiseCmdError .badOpcode p.op 0#8, by simp only [h]; rfl, rfl, rfl, .inl rfl⟩

theorem finishCommand_cmdDone (s : State) : s.finishCommand.irqStatus.getLsbD 0 = true := by
  rw [finishCommand_irqStatus, BitVec.getLsbD_or]
  exact Bool.or_eq_true_iff.mpr (.inr rfl)

/-! ### Every step goes on and keeps the decoder invariants -/

/-- A step of a cycle from `s` answers a next state, spends no input of a later cycle, and leaves the decoder
invariants. -/
def GoesOnFrom (s : State) (o : Host.Outcome State Fault Refusal) : Prop :=
  ∃ t, o = .next t ∧ t.script = s.script ∧ t.DecoderInv

theorem GoesOnFrom.andThen {s : State} {o : Host.Outcome State Fault Refusal}
    {f : State → Host.Outcome State Fault Refusal} (ho : GoesOnFrom s o)
    (hf : ∀ t : State, t.DecoderInv → GoesOnFrom t (f t)) : GoesOnFrom s (Machine.andThen o f) := by
  obtain ⟨t, rfl, hscript, hinv⟩ := ho
  obtain ⟨u, hu, hscript', hinv'⟩ := hf t hinv
  exact ⟨u, hu, hscript'.trans hscript, hinv'⟩

theorem decoderReset_inv : Decoder.reset.Inv := by decide

/-- An empty decoder buffer meets the decoder invariants whatever RX_EN is. -/
theorem decoderInv_of_reset {s : State} (h : s.dec = Decoder.reset) : s.DecoderInv := by
  refine ⟨?_, fun _ => ?_⟩
  · rw [h]; exact decoderReset_inv
  · rw [h]; rfl

theorem decoderInv_congr {s t : State} (hdec : t.dec = s.dec) (hctrl : t.ctrl = s.ctrl) (h : s.DecoderInv) :
    t.DecoderInv := by
  unfold State.DecoderInv State.RxIdle
  rw [hdec, hctrl]
  exact h

theorem engineStep_goesOn (complete : Bool) {s : State} (h : s.DecoderInv) :
    GoesOnFrom s (engineStep complete s) := by
  cases complete with
  | false => exact ⟨s, rfl, rfl, h⟩
  | true =>
    cases hp : s.pending with
    | none => exact ⟨s, engineStep_idle true s hp, rfl, h⟩
    | some p =>
      obtain ⟨u, hu, hscript, hctrl, hdec⟩ := engineStep_completes hp
      refine ⟨u.finishCommand, hu, hscript, ?_⟩
      rcases hdec with hdec | hdec
      · exact decoderInv_congr (s := s) hdec hctrl h
      · exact decoderInv_of_reset hdec

theorem DecoderTouches.ctrl {s t : State} (h : DecoderTouches s t) : t.ctrl = s.ctrl := by
  unfold DecoderTouches at h
  rw [h]

theorem DecoderTouches.script {s t : State} (h : DecoderTouches s t) : t.script = s.script := by
  unfold DecoderTouches at h
  rw [h]

/-- A byte is taken only with RX_EN = 1, so RX_EN's rule (R721) is not in play. -/
theorem byteStep_goesOn (x : Byte) {s : State} (h : s.DecoderInv) (hen : s.ctrl.rxEn = true) :
    GoesOnFrom s (byteStep x s) := by
  obtain ⟨t, ht, htouch, hinv, -⟩ := byteStep_spec x s h.1
  refine ⟨t, ht, htouch.script, hinv, fun hoff => ?_⟩
  rw [htouch.ctrl, hen] at hoff
  cases hoff

theorem rxPortStep_goesOn (x : Byte) {s : State} (h : s.DecoderInv) : GoesOnFrom s (rxPortStep x s) := by
  unfold rxPortStep
  split
  · next hrx => exact byteStep_goesOn x h (Bool.and_eq_true_iff.mp hrx).1
  · exact ⟨s, rfl, rfl, h⟩

theorem rxPushStep_goesOn (x : Byte) {s : State} (h : s.DecoderInv) : GoesOnFrom s (rxPushStep x s) := by
  unfold rxPushStep
  split
  · next hrx => exact byteStep_goesOn x h (Bool.and_eq_true_iff.mp hrx).1
  · exact ⟨s, rfl, rfl, h⟩

/-! ### The host access -/

theorem disableRx_dec (s : State) (new : Ctrl) :
    (s.disableRx new).dec = if s.ctrl.rxEn && !new.rxEn then Decoder.reset else s.dec := by
  unfold State.disableRx
  split <;> rfl

theorem disableRx_script (s : State) (new : Ctrl) : (s.disableRx new).script = s.script := by
  unfold State.disableRx
  split <;> rfl

theorem regroupBands_keepsRx (s : State) (new : Ctrl) : KeepsRx s (s.regroupBands new) := by
  unfold State.regroupBands
  split
  · exact clearDsp_keepsRx s
  · exact ⟨rfl, rfl, .inl rfl⟩

theorem regroupBands_dec (s : State) (new : Ctrl) : (s.regroupBands new).dec = s.dec := by
  unfold State.regroupBands
  split
  · exact clearDsp_dec s
  · rfl

/-- What a write to CTRL leaves of the receiving side: RX_EN from 1 to 0 resets the decoder (R103, R721). -/
theorem writeCtrl_dec (s : State) (w : Word) :
    (s.writeCtrl w).dec = if s.ctrl.rxEn && !(ctrlOfWord s.ctrl w).rxEn then Decoder.reset else s.dec :=
  (regroupBands_dec _ _).trans (disableRx_dec s _)

theorem writeCtrl_script (s : State) (w : Word) : (s.writeCtrl w).script = s.script :=
  (regroupBands_keepsRx _ _).script.trans (disableRx_script s _)

theorem writeCtrl_decoderInv {s : State} (w : Word) (h : s.DecoderInv) : (s.writeCtrl w).DecoderInv := by
  have hdec := writeCtrl_dec s w
  split at hdec
  · exact decoderInv_of_reset hdec
  · next hkeep =>
    refine ⟨by rw [hdec]; exact h.1, fun hoff => ?_⟩
    rw [hdec]
    apply h.2
    have hoff : (ctrlOfWord s.ctrl w).rxEn = false := hoff
    simpa [hoff] using hkeep

theorem issueCommand_keepsRx (s : State) (w : Word) : KeepsRx s (s.issueCommand w) := by
  unfold State.issueCommand
  split <;> exact ⟨rfl, rfl, .inl rfl⟩

theorem KeepsRx.setCfg {s t : State} (k : KeepsRx s t) (c : DspConfig) :
    KeepsRx s (t.setCfg c) :=
  ⟨k.script, k.ctrl, k.dec⟩

theorem KeepsRx.respond {s t : State} (k : KeepsRx s t) (w : Word) (e : Bool) :
    KeepsRx s (t.respond w e) :=
  ⟨k.script, k.ctrl, k.dec⟩

theorem writeBandRange_keepsRx (s : State) (i : Fin 12) (r : BinRange) : KeepsRx s (s.writeBandRange i r) := by
  refine KeepsRx.setCfg (t := if s.cfg.bandRange[i] ≠ r then s.clearDsp else s) ?_ _
  split
  · exact clearDsp_keepsRx s
  · exact ⟨rfl, rfl, .inl rfl⟩

theorem writeBin_keepsRx (s : State) (b : Fin 1024) (w : Word) : KeepsRx s (s.writeBin b w) := by
  unfold State.writeBin
  split <;> exact ⟨rfl, rfl, .inl rfl⟩

theorem KeepsRx.goesOn {s t : State} (k : KeepsRx s t) (h : s.DecoderInv) :
    GoesOnFrom s (.next t) := by
  refine ⟨t, rfl, k.script, ?_⟩
  rcases k.dec with hdec | hdec
  · exact decoderInv_congr hdec k.ctrl h
  · exact decoderInv_of_reset hdec

/-- CTRL and RX_PUSH are the registers through which a write reaches the decoder. -/
theorem storeReg_goesOn (r : Reg) (w : Word) {s : State} (h : s.DecoderInv) : GoesOnFrom s (s.storeReg w r) := by
  cases r
  case ctrl => exact ⟨_, rfl, writeCtrl_script s w, writeCtrl_decoderInv w h⟩
  case rxPush => exact rxPushStep_goesOn _ h
  case cmd => exact (issueCommand_keepsRx s w).goesOn h
  case bandRange i => exact (writeBandRange_keepsRx s i _).goesOn h
  case bin b => exact (writeBin_keepsRx s b w).goesOn h
  all_goals exact ⟨_, rfl, rfl, h⟩

theorem writeReg_goesOn (r : Reg) (w : Word) {s : State} (h : s.DecoderInv) : GoesOnFrom s (s.writeReg r w) := by
  unfold State.writeReg
  split
  · exact ⟨_, rfl, rfl, h⟩
  · exact storeReg_goesOn r w h

theorem afterRead_keepsRx (s : State) (r : Reg) : KeepsRx s (s.afterRead r) := by
  unfold State.afterRead
  split
  · split <;> exact ⟨rfl, rfl, .inl rfl⟩
  · exact ⟨rfl, rfl, .inl rfl⟩

theorem hostAccess_goesOn (a : HostAccess) {s : State} (h : s.DecoderInv) : GoesOnFrom s (hostAccess a s) := by
  unfold hostAccess
  cases a with
  | read addr width =>
    dsimp only
    split
    · exact ((afterRead_keepsRx s _).respond _ _).goesOn h
    · exact ⟨_, rfl, rfl, h⟩
  | write addr width data =>
    dsimp only
    split
    · exact writeReg_goesOn _ _ (s := s.respond 0#32 false) h
    · exact ⟨_, rfl, rfl, h⟩

/-! ### The timebase, the rest of the cycle, the cycle -/

/-- Only SEEKING_SOF asks anything of the stale count. -/
theorem inv_staleCnt {d : Decoder} (c : BitVec 16) (h : d.Inv) (hacc : d.dstate = .accumulating) :
    ({ d with staleCnt := c } : Decoder).Inv := by
  obtain ⟨hempty, hsof, hheader, hzero, -⟩ := h
  exact ⟨hempty, hsof, hheader, hzero, fun hseek => absurd (hacc.symm.trans hseek) (by decide)⟩

theorem staleClear_decoderInv (s : State) : s.staleClear.DecoderInv :=
  ⟨inv_withBytes { s.dec with staleCnt := 0#16 } [] (.inl rfl) (by simp) (fun _ => rfl), fun _ => rfl⟩

theorem timebaseStep_goesOn {s : State} (h : s.DecoderInv) : GoesOnFrom s (.next (timebaseStep s)) := by
  unfold timebaseStep
  split
  · exact ⟨_, rfl, rfl, h⟩
  · split
    · next hacc =>
      split
      · exact ⟨_, rfl, rfl, staleClear_decoderInv _⟩
      · exact ⟨_, rfl, rfl, inv_staleCnt _ h.1 hacc.1, h.2⟩
    · exact ⟨_, rfl, rfl, h⟩

theorem txStep_goesOn (ready : Bool) {s : State} (h : s.DecoderInv) : GoesOnFrom s (.next (txStep ready s)) := by
  unfold txStep
  split <;> exact ⟨_, rfl, rfl, h⟩

theorem tickStep_goesOn (tick : Bool) {s : State} (h : s.DecoderInv) : GoesOnFrom s (.next (tickStep tick s)) := by
  unfold tickStep
  split
  · exact timebaseStep_goesOn h
  · exact ⟨_, rfl, rfl, h⟩

theorem hostStep_goesOn (a : Option HostAccess) {s : State} (h : s.DecoderInv) : GoesOnFrom s (hostStep a s) := by
  cases a with
  | none => exact ⟨_, rfl, rfl, h⟩
  | some a => exact hostAccess_goesOn a h

theorem rxStep_goesOn (x : Option Byte) {s : State} (h : s.DecoderInv) : GoesOnFrom s (rxStep x s) := by
  cases x with
  | none => exact ⟨_, rfl, rfl, h⟩
  | some x => exact rxPortStep_goesOn x h

theorem restOfCycle_goesOn (c : Cycle) {s : State} (h : s.DecoderInv) : GoesOnFrom s (restOfCycle c s) := by
  refine (hostStep_goesOn c.host h).andThen fun s₁ h₁ => ?_
  refine (rxStep_goesOn c.rx h₁).andThen fun s₂ h₂ => ?_
  exact (txStep_goesOn c.txReady h₂).andThen fun s₃ h₃ => tickStep_goesOn c.tbTick h₃

/-- A cycle from a state that meets the decoder invariants goes on, spends one cycle of the script and keeps the
invariants. -/
theorem step_goesOn {s : State} (h : s.DecoderInv) :
    ∃ t, step s = .next t ∧ t.script = s.script.tail ∧ t.DecoderInv := by
  rw [step_eq, runCycle]
  split
  · exact ⟨_, rfl, rfl, decoderInv_of_reset rfl⟩
  · exact (engineStep_goesOn _ (s := s.startCycle) h).andThen fun u hu => restOfCycle_goesOn _ hu

/-! ### Completion by fairness -/

/-- With no input to come, the cycles up to the first one in which `T_CMD` lets the command complete leave everything
but the clock alone; in that cycle the completion step is taken. -/
theorem reaches_completion {s t : State} (n : Nat) (hscript : s.script = [])
    (hwait : ∀ j < n, Config.completesIn (s.clk + j) = false) (hdone : Config.completesIn (s.clk + n) = true)
    (ht : engineStep true { s with clk := s.clk + n + 1, now := CycleNotes.none, port := PortOut.none } = .next t) :
    Reaches (n + 1) s t := by
  have hstart : s.startCycle = { s with clk := s.clk + 1, now := CycleNotes.none, port := PortOut.none } := by
    simp only [State.startCycle, hscript, List.tail_nil]
  have hstep := step_of_quiet_inputs (cycleNow_past hscript)
  induction n generalizing s with
  | zero =>
    refine ⟨t, ?_, rfl⟩
    rw [hstep, show Config.completesIn s.clk = true from hdone, hstart]
    exact ht
  | succ n ih =>
    have hnow : Config.completesIn s.clk = false := hwait 0 (Nat.succ_pos n)
    have hclk : ∀ j, s.clk + 1 + j = s.clk + (j + 1) := fun j => by omega
    refine ⟨s.startCycle, by rw [hstep, hnow, engineStep_false], ?_⟩
    rw [hstart]
    refine ih (s := { s with clk := s.clk + 1, now := CycleNotes.none, port := PortOut.none }) hscript
      (fun j hj => ?_) ?_ ?_ ?_ ?_
    · rw [hclk]; exact hwait (j + 1) (Nat.succ_lt_succ hj)
    · rw [hclk]; exact hdone
    · simp only [hclk]; exact ht
    · simp only [State.startCycle, hscript, List.tail_nil]
    · exact step_of_quiet_inputs (cycleNow_past hscript)

/-- The first cycle from `clk` on in which `T_CMD` lets a command complete (R401). -/
theorem exists_first_completion (clk : Nat) :
    ∃ n, Config.completesIn (clk + n) = true ∧ ∀ j < n, Config.completesIn (clk + j) = false := by
  have hex : ∃ n, Config.completesIn (clk + n) = true := by
    obtain ⟨m, hle, hm⟩ := completesIn_fair clk
    exact ⟨m - clk, by rwa [Nat.add_sub_cancel' hle]⟩
  exact ⟨Nat.find hex, Nat.find_spec hex, fun j hj => by simpa using Nat.find_min hex hj⟩

/-- A pending command completes after some number of cycles without input (R12, R401). -/
theorem pending_completes {s : State} {p : CmdWord} (hscript : s.script = []) (hp : s.pending = some p) :
    ∃ n t, engineStep true { s with clk := s.clk + n + 1, now := CycleNotes.none, port := PortOut.none } = .next t
      ∧ t.pending = none ∧ t.irqStatus.getLsbD 0 = true ∧ t.script = [] ∧ Reaches (n + 1) s t := by
  obtain ⟨n, hdone, hwait⟩ := exists_first_completion s.clk
  obtain ⟨u, hu, hkeep⟩ := engineStep_completes
    (s := { s with clk := s.clk + n + 1, now := CycleNotes.none, port := PortOut.none }) hp
  exact ⟨n, u.finishCommand, hu, finishCommand_pending u, finishCommand_cmdDone u, hkeep.script.trans hscript,
    reaches_completion n hscript hwait hdone hu⟩

/-- Once the script is spent the engine empties: at once if nothing is pending, else by fairness. Before that, each
cycle spends one entry. -/
theorem reaches_idle (script : List Cycle) {s : State} (hscript : s.script = script) (h : s.DecoderInv) :
    ∃ k t, Reaches k s t ∧ t.script = [] ∧ t.pending = none := by
  induction script generalizing s with
  | nil =>
    cases hp : s.pending with
    | none => exact ⟨0, s, rfl, hscript, hp⟩
    | some p =>
      obtain ⟨n, t, -, hidle, -, hspent, hreach⟩ := pending_completes hscript hp
      exact ⟨n + 1, t, hreach, hspent, hidle⟩
  | cons c rest ih =>
    obtain ⟨u, hu, hscript', hinv⟩ := step_goesOn h
    obtain ⟨k, t, hreach, hspent, hidle⟩ := ih (by rw [hscript', hscript]; rfl) hinv
    exact ⟨k + 1, t, ⟨u, hu, hreach⟩, hspent, hidle⟩

/-- Settles O60: fairness names the cycle of the completion, and induction on the script brings the block there. -/
theorem pendingCommandCompletes : Obligations.PendingCommandCompletes := by
  unfold Obligations.PendingCommandCompletes
  refine ⟨fun s p hscript hp => ?_, fun s h => reaches_idle s.script rfl h⟩
  obtain ⟨n, t, hengine, hidle, hdone, -, hreach⟩ := pending_completes hscript hp
  exact ⟨n, t, hengine, hidle, hdone, hreach⟩

end Sys2Proof.Machine
end

section
/-! # Binary32 patterns: sign, magnitude bits, value (R17), and the order of values (R20) -/

namespace Sys2Proof.Machine

/-! ### The value of the magnitude bits -/

/-- The value of 31 magnitude bits, in units of 2^-149 (R17). It goes on above the finite values: an infinity's bits
stand at 2^277. -/
def magVal (b : Nat) : Nat :=
  if b / 2 ^ 23 = 0 then b % 2 ^ 23 else (2 ^ 23 + b % 2 ^ 23) <<< (b / 2 ^ 23 - 1)

theorem fmant_eq_magVal (x : F32) : fmant x = magVal (fmagBits x) := rfl

/-- Exponent `d` and a significand `s`, where a significand of 2^24 has carried into the exponent. -/
theorem magVal_mul_add {d s : Nat} (hs : s ≤ 2 ^ 24) (hd : d = 0 ∨ 2 ^ 23 ≤ s) :
    magVal (d * 2 ^ 23 + s) = s * 2 ^ d := by
  unfold magVal
  rcases Nat.lt_or_ge s (2 ^ 23) with hsub | hnorm
  · obtain rfl : d = 0 := by omega
    rw [if_pos (by omega)]
    omega
  · rw [if_neg (by omega), Nat.shiftLeft_eq]
    rcases Nat.lt_or_eq_of_le hs with hlt | rfl
    · rw [show (d * 2 ^ 23 + s) / 2 ^ 23 - 1 = d by omega, show 2 ^ 23 + (d * 2 ^ 23 + s) % 2 ^ 23 = s by omega]
    · rw [show (d * 2 ^ 23 + 2 ^ 24) / 2 ^ 23 - 1 = d + 1 by omega,
        show 2 ^ 23 + (d * 2 ^ 23 + 2 ^ 24) % 2 ^ 23 = 2 ^ 23 by omega, Nat.pow_succ 2 d]
      omega

/-- Every magnitude is an exponent and a significand below 2^24. -/
theorem magBits_split (b : Nat) : ∃ d s, b = d * 2 ^ 23 + s ∧ s < 2 ^ 24 ∧ (d = 0 ∨ 2 ^ 23 ≤ s) :=
  ⟨b / 2 ^ 23 - 1, b - (b / 2 ^ 23 - 1) * 2 ^ 23, by omega, by omega, by omega⟩

theorem magVal_lt_succ (b : Nat) : magVal b < magVal (b + 1) := by
  obtain ⟨d, s, rfl, hs, hd⟩ := magBits_split b
  rw [Nat.add_assoc, magVal_mul_add (by omega) hd, magVal_mul_add (by omega) (by omega)]
  exact Nat.mul_lt_mul_of_pos_right (Nat.lt_succ_self s) (Nat.two_pow_pos d)

/-- The magnitude bits order the values (R17, R20). -/
theorem magVal_strictMono : StrictMono magVal := strictMono_nat_of_lt_succ magVal_lt_succ

@[simp] theorem magVal_zero : magVal 0 = 0 := rfl

theorem magVal_eq_zero_iff {b : Nat} : magVal b = 0 ↔ b = 0 := magVal_strictMono.injective.eq_iff' magVal_zero

/-! ### A pattern is a sign and magnitude bits -/

theorem fmagBits_lt (x : F32) : fmagBits x < 2 ^ 31 := Nat.mod_lt _ (by decide)

theorem toNat_eq_fsign_fmagBits (x : F32) : x.toNat = (if fsign x then 2 ^ 31 else 0) + fmagBits x := by
  have := x.isLt
  unfold fsign fmagBits
  by_cases hneg : 2 ^ 31 ≤ x.toNat
  · rw [decide_eq_true hneg, if_pos rfl]; omega
  · rw [decide_eq_false hneg, if_neg Bool.false_ne_true]; omega

theorem f32_ext {x y : F32} (hs : fsign x = fsign y) (hm : fmagBits x = fmagBits y) : x = y :=
  BitVec.eq_of_toNat_eq (by rw [toNat_eq_fsign_fmagBits, toNat_eq_fsign_fmagBits y, hs, hm])

theorem toNat_fpack {neg : Bool} {mag : Nat} (h : mag < 2 ^ 31) :
    (fpack neg mag).toNat = (if neg then 2 ^ 31 else 0) + mag := by
  unfold fpack
  rw [BitVec.toNat_ofNat]
  cases neg <;> simp <;> omega

@[simp] theorem fsign_fpack {neg : Bool} {mag : Nat} (h : mag < 2 ^ 31) : fsign (fpack neg mag) = neg := by
  unfold fsign
  rw [toNat_fpack h]
  cases neg <;> simp
  omega

@[simp] theorem fmagBits_fpack {neg : Bool} {mag : Nat} (h : mag < 2 ^ 31) : fmagBits (fpack neg mag) = mag := by
  unfold fmagBits
  rw [toNat_fpack h]
  cases neg <;> simp <;> omega

/-- A pattern is packed from its own sign and magnitude bits. -/
theorem fpack_fsign_fmagBits (x : F32) : fpack (fsign x) (fmagBits x) = x :=
  f32_ext (fsign_fpack (fmagBits_lt x)) (fmagBits_fpack (fmagBits_lt x))

@[simp] theorem fsign_fneg (x : F32) : fsign (fneg x) = !fsign x := by
  have hmsb : ∀ y : F32, fsign y = y.msb := fun y => (BitVec.msb_eq_decide y).symm
  rw [hmsb, hmsb, fneg, BitVec.msb_xor, show (0x80000000#32).msb = true from rfl, Bool.xor_true]

@[simp] theorem fmagBits_fneg (x : F32) : fmagBits (fneg x) = fmagBits x := by
  unfold fmagBits fneg
  rw [BitVec.toNat_xor, Nat.xor_mod_two_pow]
  exact Nat.xor_zero _

@[simp] theorem unitsOf_fneg (x : F32) : unitsOf (fneg x) = -unitsOf x := by
  unfold unitsOf
  rw [fsign_fneg, fmant_eq_magVal, fmagBits_fneg, ← fmant_eq_magVal]
  cases fsign x <;> simp

/-! ### NaN, infinite, finite -/

theorem fIsNaN_iff (x : F32) : fIsNaN x = true ↔ 0x7F800000 < fmagBits x := decide_eq_true_iff
theorem fIsNaN_false_iff (x : F32) : fIsNaN x = false ↔ fmagBits x ≤ 0x7F800000 := by simp [fIsNaN]
theorem fIsInf_iff (x : F32) : fIsInf x = true ↔ fmagBits x = 0x7F800000 := beq_iff_eq
theorem fIsInf_false_iff (x : F32) : fIsInf x = false ↔ fmagBits x ≠ 0x7F800000 := by simp [fIsInf]
theorem fIsFinite_iff (x : F32) : fIsFinite x = true ↔ fmagBits x < 0x7F800000 := decide_eq_true_iff

theorem not_nan_of_finite {x : F32} (h : fIsFinite x = true) : fIsNaN x = false :=
  (fIsNaN_false_iff x).mpr ((fIsFinite_iff x).mp h).le

theorem not_inf_of_finite {x : F32} (h : fIsFinite x = true) : fIsInf x = false :=
  (fIsInf_false_iff x).mpr ((fIsFinite_iff x).mp h).ne

theorem not_nan_of_inf {x : F32} (h : fIsInf x = true) : fIsNaN x = false :=
  (fIsNaN_false_iff x).mpr ((fIsInf_iff x).mp h).le

@[simp] theorem fIsNaN_fneg (x : F32) : fIsNaN (fneg x) = fIsNaN x := by unfold fIsNaN; rw [fmagBits_fneg]
@[simp] theorem fIsInf_fneg (x : F32) : fIsInf (fneg x) = fIsInf x := by unfold fIsInf; rw [fmagBits_fneg]
@[simp] theorem fIsFinite_fneg (x : F32) : fIsFinite (fneg x) = fIsFinite x := by unfold fIsFinite; rw [fmagBits_fneg]

/-! ### The order of values (R20) -/

/-- The keys are ordered as the values are. -/
theorem fkey_lt_iff (x y : F32) : fkey x < fkey y ↔ unitsOf x < unitsOf y := by
  have hlt := magVal_strictMono.lt_iff_lt (a := fmagBits x) (b := fmagBits y)
  have hgt := magVal_strictMono.lt_iff_lt (a := fmagBits y) (b := fmagBits x)
  have hx := magVal_eq_zero_iff (b := fmagBits x)
  have hy := magVal_eq_zero_iff (b := fmagBits y)
  unfold fkey unitsOf
  rw [fmant_eq_magVal, fmant_eq_magVal]
  cases fsign x <;> cases fsign y <;> simp <;> omega

theorem fkey_le_iff (x y : F32) : fkey x ≤ fkey y ↔ unitsOf x ≤ unitsOf y := by
  rw [← not_lt, fkey_lt_iff, not_lt]

theorem fkey_eq_iff (x y : F32) : fkey x = fkey y ↔ unitsOf x = unitsOf y := by
  rw [le_antisymm_iff, fkey_le_iff, fkey_le_iff, ← le_antisymm_iff]

theorem fgt_iff (x y : F32) : fgt x y = true ↔ fIsNaN x = false ∧ fIsNaN y = false ∧ unitsOf y < unitsOf x := by
  simp [fgt, fkey_lt_iff, and_assoc]

theorem fge_iff (x y : F32) : fge x y = true ↔ fIsNaN x = false ∧ fIsNaN y = false ∧ unitsOf y ≤ unitsOf x := by
  simp [fge, fkey_le_iff, and_assoc]

theorem feq_iff (x y : F32) : feq x y = true ↔ fIsNaN x = false ∧ fIsNaN y = false ∧ unitsOf x = unitsOf y := by
  simp [feq, fkey_eq_iff, and_assoc]

theorem unitsOf_of_nonneg {x : F32} (h : fsign x = false) : unitsOf x = fmant x := by
  simp [unitsOf, h]

/-- Above zero: no NaN, no sign bit, not zero. -/
theorem fgt_zero_iff (x : F32) :
    fgt x 0x00000000#32 = true ↔ fIsNaN x = false ∧ fsign x = false ∧ fmagBits x ≠ 0 := by
  have hx := magVal_eq_zero_iff (b := fmagBits x)
  rw [fgt_iff, show fIsNaN 0x00000000#32 = false from rfl, show unitsOf 0x00000000#32 = 0 from rfl, unitsOf,
    fmant_eq_magVal]
  cases fsign x <;> simp
  omega

end Sys2Proof.Machine
end

section
/-! # The conversions to bytes and to Hz (R22 to R24) -/

namespace Sys2Proof.Machine

/-- A rounded magnitude never passes the infinity's bits. -/
theorem froundMag_le (m k : Nat) (sticky : Bool) : froundMag m k sticky ≤ 0x7F800000 := Nat.min_le_right _ _

/-- A product of two values above zero is no NaN and has no sign bit. -/
theorem fmul_pos {x c : F32} (hx : fgt x 0x00000000#32 = true) (hc : fgt c 0x00000000#32 = true) :
    fIsNaN (fmul x c) = false ∧ fsign (fmul x c) = false := by
  obtain ⟨hxn, hxs, hx0⟩ := (fgt_zero_iff x).mp hx
  obtain ⟨hcn, hcs, hc0⟩ := (fgt_zero_iff c).mp hc
  have hpack : ∀ mag ≤ 0x7F800000, fIsNaN (fpack false mag) = false ∧ fsign (fpack false mag) = false := fun mag h => by
    rw [fIsNaN_false_iff, fmagBits_fpack (by omega), fsign_fpack (by omega)]
    exact ⟨h, rfl⟩
  unfold fmul
  simp only [hxn, hcn, hxs, hcs, bne_self_eq_false, beq_eq_false_iff_ne.mpr hx0, beq_eq_false_iff_ne.mpr hc0,
    Bool.or_self, Bool.false_eq_true, if_false]
  split
  · exact hpack _ (le_refl _)
  · exact hpack _ (froundMag_le _ _ _)

/-- A value without sign bit that is not at or above `c` is less than `c` (it may not be a NaN). -/
theorem fmant_lt_of_not_fge {v c : F32} (hv : fIsNaN v = false) (hs : fsign v = false) (hc : fIsNaN c = false)
    (hcs : fsign c = false) (h : fge v c = false) : fmant v < fmant c := by
  have hlt : ¬ unitsOf c ≤ unitsOf v := fun hle => by
    rw [(fge_iff v c).mpr ⟨hv, hc, hle⟩] at h
    cases h
  rw [unitsOf_of_nonneg hs, unitsOf_of_nonneg hcs] at hlt
  omega

/-- What is at or above a value above zero is above zero. -/
theorem fgt_zero_of_fge {x c : F32} (hc : fgt c 0x00000000#32 = true) (h : fge x c = true) :
    fgt x 0x00000000#32 = true := by
  obtain ⟨hx, -, hle⟩ := (fge_iff x c).mp h
  obtain ⟨-, hz, hlt⟩ := (fgt_iff c _).mp hc
  exact (fgt_iff x _).mpr ⟨hx, hz, lt_of_lt_of_le hlt hle⟩

/-! ### Rounding to an integer -/

/-- `floor` of a value in units (R23). -/
theorem ffloorNat_bounds (t : F32) : ffloorNat t * 2 ^ 149 ≤ fmant t ∧ fmant t < (ffloorNat t + 1) * 2 ^ 149 := by
  unfold ffloorNat
  rw [Nat.shiftRight_eq_div_pow]
  omega

/-- `floor(t + 1/2)` of a value in units (R22, R24). -/
theorem fhalfUpNat_bounds (t : F32) :
    fhalfUpNat t * 2 ^ 150 ≤ 2 * fmant t + 2 ^ 149 ∧ 2 * fmant t + 2 ^ 149 < (fhalfUpNat t + 1) * 2 ^ 150 := by
  unfold fhalfUpNat
  rw [Nat.shiftRight_eq_div_pow, Nat.shiftLeft_eq, Nat.one_mul]
  omega

/-- Below the integer `n` the half-up rounding may reach `n`, but no more. -/
theorem fhalfUpNat_le {t : F32} {n : Nat} (h : fmant t < n * 2 ^ 149) : fhalfUpNat t ≤ n := by
  have := (fhalfUpNat_bounds t).1
  omega

theorem ffloorNat_lt {t : F32} {n : Nat} (h : fmant t < n * 2 ^ 149) : ffloorNat t < n := by
  have := (ffloorNat_bounds t).1
  omega

/-! ### The constants of R22 to R24 -/

theorem fmant_255 : fmant 0x437F0000#32 = 255 * 2 ^ 149 := by decide +kernel
theorem fmant_65535 : fmant 0x477FFF00#32 = 65535 * 2 ^ 149 := by decide +kernel
theorem fgt_255_zero : fgt 0x437F0000#32 0x00000000#32 = true := by decide +kernel
theorem fgt_65535_zero : fgt 0x477FFF00#32 0x00000000#32 = true := by decide +kernel

/-- A value above zero and below the constant `c = n.0` is less than `n` units of 2^149. -/
theorem fmant_lt_const {v c : F32} {n : Nat} (hv : fIsNaN v = false) (hs : fsign v = false)
    (hc : fgt c 0x00000000#32 = true) (hn : fmant c = n * 2 ^ 149) (h : fge v c = false) : fmant v < n * 2 ^ 149 := by
  obtain ⟨hcn, hcs, -⟩ := (fgt_zero_iff c).mp hc
  exact hn ▸ fmant_lt_of_not_fge hv hs hcn hcs h

/-! ### Each conversion, once for each of its ranges -/

theorem q8_zero {x : F32} (h : fgt x 0x00000000#32 = false) : q8 x = 0#8 := if_neg (by simp [fzero, h])
theorem hz16_zero {x : F32} (h : fgt x 0x00000000#32 = false) : hz16 x = 0#16 := if_neg (by simp [fzero, h])
theorem str8_zero {pr : F32} (h : fgt (str8Scaled pr) 0x00000000#32 = false) : str8 pr = 0#8 :=
  if_neg (by simp [fzero, h])

theorem q8_saturated {x : F32} (h : fgt x 0x00000000#32 = true) (hge : fge (fmul x 0x437F0000#32) 0x437F0000#32 = true) :
    q8 x = 255#8 := by
  simp [q8, fzero, h, hge]

theorem hz16_saturated {x : F32} (hge : fge x 0x477FFF00#32 = true) : hz16 x = 65535#16 := by
  have h := fgt_zero_of_fge fgt_65535_zero hge
  simp [hz16, fzero, h, hge]

theorem str8_saturated {pr : F32} (hge : fge (str8Scaled pr) 0x437F0000#32 = true) : str8 pr = 255#8 := by
  have h := fgt_zero_of_fge fgt_255_zero hge
  simp [str8, fzero, h, hge]

theorem toNat_q8 {x : F32} (h : fgt x 0x00000000#32 = true) (hlt : fge (fmul x 0x437F0000#32) 0x437F0000#32 = false) :
    (q8 x).toNat = fhalfUpNat (fmul x 0x437F0000#32) := by
  obtain ⟨hv, hs⟩ := fmul_pos h fgt_255_zero
  have hle := fhalfUpNat_le (fmant_lt_const hv hs fgt_255_zero fmant_255 hlt)
  have hq : q8 x = BitVec.ofNat 8 (fhalfUpNat (fmul x 0x437F0000#32)) := by simp [q8, fzero, h, hlt]
  rw [hq, BitVec.toNat_ofNat, Nat.mod_eq_of_lt (by omega)]

theorem toNat_hz16 {x : F32} (h : fgt x 0x00000000#32 = true) (hlt : fge x 0x477FFF00#32 = false) :
    (hz16 x).toNat = fhalfUpNat x := by
  obtain ⟨hv, hs, -⟩ := (fgt_zero_iff x).mp h
  have hle := fhalfUpNat_le (fmant_lt_const hv hs fgt_65535_zero fmant_65535 hlt)
  have hq : hz16 x = BitVec.ofNat 16 (fhalfUpNat x) := by simp [hz16, fzero, h, hlt]
  rw [hq, BitVec.toNat_ofNat, Nat.mod_eq_of_lt (by omega)]

theorem toNat_str8 {pr : F32} (h : fgt (str8Scaled pr) 0x00000000#32 = true)
    (hlt : fge (str8Scaled pr) 0x437F0000#32 = false) : (str8 pr).toNat = ffloorNat (str8Scaled pr) := by
  obtain ⟨hv, hs, -⟩ := (fgt_zero_iff _).mp h
  have hle := ffloorNat_lt (fmant_lt_const hv hs fgt_255_zero fmant_255 hlt)
  have hq : str8 pr = BitVec.ofNat 8 (ffloorNat (str8Scaled pr)) := by simp [str8, fzero, h, hlt]
  rw [hq, BitVec.toNat_ofNat, Nat.mod_eq_of_lt (by omega)]

/-- Settles O58: each range of each conversion is one of the lemmas above. -/
theorem conversions : Obligations.Conversions := by
  unfold Obligations.Conversions
  intro x
  refine ⟨fun h => ⟨q8_zero h, hz16_zero h⟩, q8_saturated, fun h hlt => ?_, hz16_saturated, fun h hlt => ?_,
    str8_zero, str8_saturated, fun h hlt => ?_⟩
  · rw [toNat_q8 h hlt]; exact fhalfUpNat_bounds _
  · rw [toNat_hz16 h hlt]; exact fhalfUpNat_bounds _
  · rw [toNat_str8 h hlt]; exact ffloorNat_bounds _

end Sys2Proof.Machine
end

section
/-! # The operators by the class of their operands, and the special values (R18 to R21, R25) -/

namespace Sys2Proof.Machine

/-! ### Constants -/

theorem fpack_inf (neg : Bool) : fpack neg 0x7F800000 = if neg then 0xFF800000#32 else 0x7F800000#32 := by
  cases neg <;> rfl

theorem fpack_zero (neg : Bool) : fpack neg 0 = if neg then 0x80000000#32 else 0x00000000#32 := by
  cases neg <;> rfl

/-! ### A NaN operand (R19) -/

theorem fadd_of_nan {x y : F32} (h : fIsNaN x = true ∨ fIsNaN y = true) : fadd x y = 0x7FC00000#32 :=
  if_pos (Bool.or_eq_true_iff.mpr h)

theorem fsub_of_nan {x y : F32} (h : fIsNaN x = true ∨ fIsNaN y = true) : fsub x y = 0x7FC00000#32 :=
  fadd_of_nan (by rwa [fIsNaN_fneg])

theorem fmul_of_nan {x y : F32} (h : fIsNaN x = true ∨ fIsNaN y = true) : fmul x y = 0x7FC00000#32 :=
  if_pos (Bool.or_eq_true_iff.mpr h)

theorem fdiv_of_nan {x y : F32} (h : fIsNaN x = true ∨ fIsNaN y = true) : fdiv x y = 0x7FC00000#32 :=
  if_pos (Bool.or_eq_true_iff.mpr h)

theorem fsqrt_of_nan {x : F32} (h : fIsNaN x = true) : fsqrt x = 0x7FC00000#32 := if_pos h

theorem fgt_of_nan {x y : F32} (h : fIsNaN x = true ∨ fIsNaN y = true) : fgt x y = false := by
  rcases h with h | h <;> simp [fgt, h]

theorem fge_of_nan {x y : F32} (h : fIsNaN x = true ∨ fIsNaN y = true) : fge x y = false := by
  rcases h with h | h <;> simp [fge, h]

theorem feq_of_nan {x y : F32} (h : fIsNaN x = true ∨ fIsNaN y = true) : feq x y = false := by
  rcases h with h | h <;> simp [feq, h]

/-! ### Finite operands -/

theorem fadd_finite {x y : F32} (hx : fIsFinite x = true) (hy : fIsFinite y = true) : fadd x y = faddFinite x y := by
  simp [fadd, not_nan_of_finite hx, not_nan_of_finite hy, not_inf_of_finite hx, not_inf_of_finite hy]

theorem fmul_finite {x y : F32} (hx : fIsFinite x = true) (hy : fIsFinite y = true) :
    fmul x y = fpack (fsign x != fsign y) (froundMag (fmant x * fmant y) 149 false) := by
  simp [fmul, not_nan_of_finite hx, not_nan_of_finite hy, not_inf_of_finite hx, not_inf_of_finite hy]

theorem fdiv_finite {x y : F32} (hx : fIsFinite x = true) (hy : fIsFinite y = true) (h0 : fmagBits y ≠ 0) :
    fdiv x y = fpack (fsign x != fsign y)
      (froundMag ((fmant x <<< 151) / fmant y) 2 ((fmant x <<< 151) % fmant y != 0)) := by
  simp [fdiv, not_nan_of_finite hx, not_nan_of_finite hy, not_inf_of_finite hx, not_inf_of_finite hy, h0]

/-! ### An infinite operand (R18) -/

theorem fadd_finite_inf {x y : F32} (hx : fIsFinite x = true) (hy : fIsInf y = true) : fadd x y = y := by
  simp [fadd, not_nan_of_finite hx, not_nan_of_inf hy, not_inf_of_finite hx, hy]

theorem fadd_inf_finite {x y : F32} (hx : fIsInf x = true) (hy : fIsFinite y = true) : fadd x y = x := by
  simp [fadd, not_nan_of_inf hx, not_nan_of_finite hy, not_inf_of_finite hy, hx]

theorem fadd_inf_inf {x y : F32} (hx : fIsInf x = true) (hy : fIsInf y = true) :
    fadd x y = if fsign x = fsign y then x else 0x7FC00000#32 := by
  simp only [fadd, not_nan_of_inf hx, not_nan_of_inf hy, hx, hy]
  cases fsign x <;> cases fsign y <;> rfl

theorem fsub_inf_inf {x y : F32} (hx : fIsInf x = true) (hy : fIsInf y = true) :
    fsub x y = if fsign x = fsign y then 0x7FC00000#32 else x := by
  rw [fsub, fadd_inf_inf hx (by rwa [fIsInf_fneg]), fsign_fneg]
  cases fsign x <;> cases fsign y <;> rfl

/-- A product with an infinity: NaN if the other operand is a zero, else an infinity. -/
theorem fmul_of_inf {x y : F32} (hx : fIsNaN x = false) (hy : fIsNaN y = false)
    (h : fIsInf x = true ∨ fIsInf y = true) :
    fmul x y = if fmagBits x = 0 ∨ fmagBits y = 0 then 0x7FC00000#32
      else if fsign x != fsign y then 0xFF800000#32 else 0x7F800000#32 := by
  simp only [fmul, hx, hy, Bool.or_eq_true_iff.mpr h, fpack_inf, Bool.or_self, Bool.false_eq_true, if_false, if_true,
    Bool.or_eq_true, beq_iff_eq]
  rfl

theorem fdiv_finite_inf {x y : F32} (hx : fIsFinite x = true) (hy : fIsInf y = true) :
    fdiv x y = if fsign x != fsign y then 0x80000000#32 else 0x00000000#32 := by
  simp [fdiv, not_nan_of_finite hx, not_nan_of_inf hy, not_inf_of_finite hx, hy, fpack_zero]

theorem fdiv_inf_finite {x y : F32} (hx : fIsInf x = true) (hy : fIsFinite y = true) :
    fdiv x y = if fsign x != fsign y then 0xFF800000#32 else 0x7F800000#32 := by
  simp [fdiv, not_nan_of_inf hx, not_nan_of_finite hy, not_inf_of_finite hy, hx, fpack_inf]

theorem fdiv_inf_inf {x y : F32} (hx : fIsInf x = true) (hy : fIsInf y = true) : fdiv x y = 0x7FC00000#32 := by
  simp [fdiv, not_nan_of_inf hx, not_nan_of_inf hy, hx, hy, fnan]

theorem fmagBits_ne_zero_of_inf {x : F32} (hx : fIsInf x = true) : fmagBits x ≠ 0 := by
  rw [(fIsInf_iff x).mp hx]; decide

theorem fsqrt_inf {x : F32} (hx : fIsInf x = true) : fsqrt x = if fsign x then 0x7FC00000#32 else x := by
  simp [fsqrt, not_nan_of_inf hx, hx, fmagBits_ne_zero_of_inf hx, fnan]

/-! ### A zero operand (R18) -/

theorem fdiv_by_zero {x y : F32} (hx : fIsFinite x = true) (hy : fmagBits y = 0) :
    fdiv x y = if fmagBits x = 0 then 0x7FC00000#32
      else if fsign x != fsign y then 0xFF800000#32 else 0x7F800000#32 := by
  have hyf : fIsFinite y = true := (fIsFinite_iff y).mpr (by omega)
  simp [fdiv, not_nan_of_finite hx, not_nan_of_finite hyf, not_inf_of_finite hx, not_inf_of_finite hyf, hy, fnan,
    fpack_inf]

theorem fsqrt_zero {y : F32} (hy : fmagBits y = 0) : fsqrt y = y := by
  have hyf : fIsFinite y = true := (fIsFinite_iff y).mpr (by omega)
  simp [fsqrt, not_nan_of_finite hyf, hy]

theorem fsqrt_negative {x : F32} (hx : fIsFinite x = true) (h0 : fmagBits x ≠ 0) (hs : fsign x = true) :
    fsqrt x = 0x7FC00000#32 := by
  simp [fsqrt, not_nan_of_finite hx, h0, hs, fnan]

/-! ### The helper functions (R21, R25) -/

theorem fpos_eq (x : F32) : fpos x = if fgt x 0x00000000#32 then x else 0x00000000#32 := rfl

theorem inUnit_iff (x : F32) :
    inUnit x = true ↔ fIsNaN x = false ∧ 0 ≤ unitsOf x ∧ unitsOf x ≤ unitsOf 0x3F800000#32 := by
  unfold inUnit
  rw [Bool.and_eq_true, fge_iff, fge_iff, show unitsOf 0x00000000#32 = 0 from rfl,
    show fIsNaN 0x00000000#32 = false from rfl, show fIsNaN 0x3F800000#32 = false from rfl]
  tauto

/-- A NaN and what is not above zero go to `+0.0`, what is above one goes to one, and the rest stays (R21). -/
theorem fclamp01_eq (x : F32) :
    fclamp01 x = if fgt x 0x00000000#32 then (if fgt x 0x3F800000#32 then 0x3F800000#32 else x) else 0x00000000#32 :=
  rfl

theorem fgt_zero_of_fgt_one {x : F32} (h : fgt x 0x3F800000#32 = true) : fgt x 0x00000000#32 = true := by
  obtain ⟨hx, -, hlt⟩ := (fgt_iff x _).mp h
  exact (fgt_iff x _).mpr ⟨hx, rfl, lt_trans (by decide +kernel) hlt⟩

theorem inUnit_fclamp01 (x : F32) : inUnit (fclamp01 x) = true := by
  rw [fclamp01_eq]
  split
  · next hpos =>
    split
    · decide +kernel
    · next hle =>
      obtain ⟨hx, -, hlt⟩ := (fgt_iff x _).mp hpos
      rw [fgt_iff] at hle
      refine (inUnit_iff x).mpr ⟨hx, hlt.le, not_lt.mp fun hgt => hle ⟨hx, rfl, hgt⟩⟩
  · decide +kernel

theorem fclamp01_of_inUnit {x : F32} (h : inUnit x = true) (hpos : fgt x 0x00000000#32 = true) : fclamp01 x = x := by
  obtain ⟨-, -, hle⟩ := (inUnit_iff x).mp h
  rw [fclamp01_eq, if_pos hpos, if_neg]
  rw [fgt_iff]
  rintro ⟨-, -, hgt⟩
  exact absurd hgt (not_lt.mpr hle)

theorem sanitize_eq (v : F32) :
    sanitize v = if fIsFinite v = true ∧ fgt v 0x00000000#32 = true then v else 0x00000000#32 := by
  simp [sanitize, fzero]

/-- A sanitised value is finite and not below zero (R25). -/
theorem sanitize_finite_nonneg (v : F32) :
    fIsFinite (sanitize v) = true ∧ fge (sanitize v) 0x00000000#32 = true := by
  rw [sanitize_eq]
  split
  · next h =>
    obtain ⟨hv, hz, hlt⟩ := (fgt_iff v _).mp h.2
    exact ⟨h.1, (fge_iff v _).mpr ⟨hv, hz, hlt.le⟩⟩
  · exact ⟨rfl, by decide +kernel⟩

/-- Settles O59: the operators by the class of their operands, the comparisons through the order of values, and the
helper functions. -/
theorem specialValues : Obligations.SpecialValues := by
  unfold Obligations.SpecialValues
  refine ⟨fun x y hx => ?nan, fun x y hx hy => ?zero, fun x y hx hy => ?finite_inf, fun x y hx hy => ?inf_inf,
    fun x y hx hy => ?compare, fun x f => ?select, ?_, ?_, ?_, ?_, ?_, fun x => ?clamp, fun x => ?sanitize⟩
  case nan =>
    exact ⟨fadd_of_nan (.inl hx), fadd_of_nan (.inr hx), fsub_of_nan (.inl hx), fsub_of_nan (.inr hx),
      fmul_of_nan (.inl hx), fmul_of_nan (.inr hx), fdiv_of_nan (.inl hx), fdiv_of_nan (.inr hx), fsqrt_of_nan hx,
      fgt_of_nan (.inl hx), fgt_of_nan (.inr hx), fgt_of_nan (.inr hx), fgt_of_nan (.inl hx),
      fge_of_nan (.inl hx), fge_of_nan (.inr hx), feq_of_nan (.inl hx), feq_of_nan (.inr hx)⟩
  case zero =>
    rw [fdiv_by_zero hx hy]
    exact ⟨fun h0 => ⟨if_neg h0, fsqrt_negative hx h0⟩, fun h0 => if_pos h0, fsqrt_zero hy⟩
  case finite_inf =>
    have hy0 := fmagBits_ne_zero_of_inf hy
    rw [fmul_of_inf (not_nan_of_finite hx) (not_nan_of_inf hy) (.inr hy),
      fmul_of_inf (not_nan_of_inf hy) (not_nan_of_finite hx) (.inl hy), bne_comm (a := fsign y)]
    refine ⟨fadd_finite_inf hx hy, fadd_inf_finite hy hx, fadd_inf_finite hy (by rwa [fIsFinite_fneg]),
      fadd_finite_inf hx (by rwa [fIsInf_fneg]), fdiv_finite_inf hx hy, ?_, fun h0 => ?_, fun h0 => ?_⟩
    · rw [fdiv_inf_finite hy hx, bne_comm]
    · simp [h0, hy0]
    · simp [h0]
  case inf_inf =>
    refine ⟨fadd_inf_inf hx hy, fsub_inf_inf hx hy, ?_, fdiv_inf_inf hx hy, fsqrt_inf hx⟩
    rw [fmul_of_inf (not_nan_of_inf hx) (not_nan_of_inf hy) (.inl hx),
      if_neg (not_or.mpr ⟨fmagBits_ne_zero_of_inf hx, fmagBits_ne_zero_of_inf hy⟩)]
    cases fsign x <;> cases fsign y <;> rfl
  case compare =>
    rw [flt, fgt_iff, fgt_iff, fge_iff, feq_iff]
    simp [hx, hy]
  case select =>
    rw [fpos_eq]
    exact ⟨fun h => if_pos h, fun h => if_neg (by simp [h]), fun h => if_pos h, fun h => if_neg (by simp [h])⟩
  case clamp =>
    refine ⟨inUnit_fclamp01 x, fun h => if_neg ?_, fclamp01_of_inUnit, fun h => ?_⟩
    · simp [fzero, h]
    · rw [fclamp01_eq, if_pos (fgt_zero_of_fgt_one h), if_pos h]
  case sanitize =>
    obtain ⟨hfinite, hnonneg⟩ := sanitize_finite_nonneg x
    refine ⟨hfinite, hnonneg, fun hf hpos => ?_, fun h => ?_⟩
    · rw [sanitize_eq, if_pos ⟨hf, hpos⟩]
    · rw [sanitize_eq, if_neg h]
  all_goals decide +kernel

end Sys2Proof.Machine
end

section
/-! # Rounding to nearest, ties to even (R18)

A magnitude `b` is the rounding of a real number exactly if the number lies between the midpoints below and above `b`,
and on a midpoint only if `b` is even. This holds without a bound on `b`; the infinity is the bound put on it. -/

namespace Sys2Proof.Machine

/-! ### Midpoints -/

/-- Twice the midpoint between a magnitude and the next one, in units of 2^-149. -/
def magMid (b : Nat) : Nat := magVal b + magVal (b + 1)

theorem magMid_mul_add {d s : Nat} (hs : s < 2 ^ 24) (hd : d = 0 ∨ 2 ^ 23 ≤ s) :
    magMid (d * 2 ^ 23 + s) = (2 * s + 1) * 2 ^ d := by
  unfold magMid
  rw [Nat.add_assoc, magVal_mul_add hs.le hd, magVal_mul_add (by omega) (by omega)]
  ring

theorem magMid_strictMono : StrictMono magMid :=
  strictMono_nat_of_lt_succ fun b => Nat.add_lt_add (magVal_lt_succ b) (magVal_lt_succ (b + 1))

/-- Half an ulp above the largest finite value (R18). -/
theorem magMid_largest : magMid 0x7F7FFFFF = 2 * ((2 ^ 25 - 1) * 2 ^ 252) := by
  rw [show 0x7F7FFFFF = 253 * 2 ^ 23 + (2 ^ 24 - 1) from rfl, magMid_mul_add (by omega) (by omega)]
  norm_num

/-! ### Being the rounding of a real number -/

/-- `b` is the rounding of `r` units, were there no largest value. -/
structure Rounds (r : ℝ) (b : Nat) : Prop where
  le_above : 2 * r ≤ magMid b
  even_of_eq_above : 2 * r = magMid b → b % 2 = 0
  below_le : ∀ c, c + 1 = b → (magMid c : ℝ) ≤ 2 * r
  even_of_eq_below : ∀ c, c + 1 = b → (magMid c : ℝ) = 2 * r → b % 2 = 0

/-- No magnitude is nearer to `r` than its rounding, and of two equally near ones the rounding is even. -/
theorem Rounds.nearest {r : ℝ} {b : Nat} (h : Rounds r b) (z : Nat) :
    |(magVal b : ℝ) - r| ≤ |(magVal z : ℝ) - r|
    ∧ (|(magVal b : ℝ) - r| = |(magVal z : ℝ) - r| → magVal z ≠ magVal b → b % 2 = 0) := by
  rcases Nat.lt_trichotomy z b with hlt | rfl | hgt
  · obtain ⟨c, rfl⟩ : ∃ c, b = c + 1 := ⟨b - 1, by omega⟩
    have hzc : (magVal z : ℝ) ≤ magVal c := by exact_mod_cast magVal_strictMono.monotone (Nat.le_of_lt_succ hlt)
    have hcb : (magVal c : ℝ) < magVal (c + 1) := by exact_mod_cast magVal_lt_succ c
    have hmid := h.below_le c rfl
    have heven := h.even_of_eq_below c rfl
    simp only [magMid, Nat.cast_add] at hmid heven
    rw [abs_sub_comm (magVal z : ℝ), abs_of_pos (show 0 < r - magVal z by linarith)]
    refine ⟨abs_le.mpr ⟨by linarith, by linarith⟩, fun heq hne => ?_⟩
    rcases eq_or_eq_neg_of_abs_eq heq with habove | hsame
    · exact heven (by linarith)
    · exact absurd (by exact_mod_cast (show (magVal z : ℝ) = magVal (c + 1) by linarith)) hne
  · exact ⟨le_refl _, fun _ hne => absurd rfl hne⟩
  · have hbz : (magVal (b + 1) : ℝ) ≤ magVal z := by exact_mod_cast magVal_strictMono.monotone hgt
    have hbb : (magVal b : ℝ) < magVal (b + 1) := by exact_mod_cast magVal_lt_succ b
    have hmid := h.le_above
    have heven := h.even_of_eq_above
    simp only [magMid, Nat.cast_add] at hmid heven
    rw [abs_of_pos (show 0 < magVal z - r by linarith)]
    refine ⟨abs_le.mpr ⟨by linarith, by linarith⟩, fun heq hne => ?_⟩
    rcases eq_or_eq_neg_of_abs_eq heq with hsame | hbelow
    · exact absurd (by exact_mod_cast (show (magVal z : ℝ) = magVal b by linarith)) hne
    · exact heven (by linarith)

/-- What is a magnitude's value rounds to that magnitude. -/
theorem Rounds.eq_of_exact {z b : Nat} (h : Rounds (magVal z) b) : b = z := by
  have hdist := (h.nearest z).1
  rw [sub_self, abs_zero, abs_nonpos_iff, sub_eq_zero] at hdist
  exact magVal_strictMono.injective (by exact_mod_cast hdist)

/-- The rounding leaves the finite magnitudes from half an ulp above the largest one on (R18): that tie is even. -/
theorem Rounds.overflow_iff {r : ℝ} {b : Nat} (h : Rounds r b) :
    0x7F800000 ≤ b ↔ (2 ^ 25 - 1) * 2 ^ 252 ≤ r := by
  have hlargest : (magMid 0x7F7FFFFF : ℝ) = 2 * ((2 ^ 25 - 1) * 2 ^ 252) := by rw [magMid_largest]; norm_num
  constructor
  · intro hb
    obtain ⟨c, rfl⟩ : ∃ c, b = c + 1 := ⟨b - 1, by omega⟩
    have hmid : (magMid 0x7F7FFFFF : ℝ) ≤ magMid c := by exact_mod_cast magMid_strictMono.monotone (by omega)
    linarith [h.below_le c rfl]
  · intro hr
    by_contra hb
    have hmid : (magMid b : ℝ) ≤ magMid 0x7F7FFFFF := by exact_mod_cast magMid_strictMono.monotone (by omega)
    have heq : (magMid b : ℝ) = magMid 0x7F7FFFFF := by linarith [h.le_above]
    have hb : b = 0x7F7FFFFF := magMid_strictMono.injective (by exact_mod_cast heq)
    have heven := h.even_of_eq_above (by linarith [h.le_above])
    omega

/-- The rounding, bounded by the infinity, is what the operators must give (R18). -/
theorem Rounds.roundsTo {r : ℝ} {b : Nat} (h : Rounds r b) (neg : Bool) :
    RoundsTo neg r (fpack neg (min b 0x7F800000)) := by
  have hlt : min b 0x7F800000 < 2 ^ 31 := by omega
  have hover := h.overflow_iff
  refine ⟨fsign_fpack hlt, fun hr => ?_, fun hr => ?_⟩
  · rw [fIsInf_iff, fmagBits_fpack hlt, Nat.min_eq_right (hover.mpr hr)]
  · have hb : b < 0x7F800000 := by
      by_contra hge
      exact absurd (hover.mp (not_lt.mp hge)) (not_le.mpr hr)
    rw [Nat.min_eq_left hb.le] at hlt ⊢
    refine ⟨by rw [fIsFinite_iff, fmagBits_fpack hlt]; exact hb, fun z _ => ?_⟩
    have hodd : (fpack neg b).toNat % 2 = b % 2 := by
      rw [toNat_fpack hlt]
      cases neg <;> simp
      omega
    rw [hodd, fmant_eq_magVal, fmant_eq_magVal, fmagBits_fpack hlt]
    exact h.nearest _

/-! ### Rounding a dyadic number -/

/-- For `m` units of 2^-(149+k) the midpoints compare as integers do. -/
theorem rounds_div_iff {m k b : Nat} :
    Rounds (m / 2 ^ k) b ↔
      (2 * m ≤ magMid b * 2 ^ k ∧ (2 * m = magMid b * 2 ^ k → b % 2 = 0))
      ∧ ∀ c, c + 1 = b → magMid c * 2 ^ k ≤ 2 * m ∧ (magMid c * 2 ^ k = 2 * m → b % 2 = 0) := by
  have hpos : (0 : ℝ) < 2 ^ k := by positivity
  have hle : ∀ n : Nat, 2 * (m / 2 ^ k : ℝ) ≤ n ↔ 2 * m ≤ n * 2 ^ k := fun n => by
    rw [← mul_div_assoc, div_le_iff₀ hpos]; exact_mod_cast Iff.rfl
  have hge : ∀ n : Nat, (n : ℝ) ≤ 2 * (m / 2 ^ k : ℝ) ↔ n * 2 ^ k ≤ 2 * m := fun n => by
    rw [← mul_div_assoc, le_div_iff₀ hpos]; exact_mod_cast Iff.rfl
  have heq : ∀ n : Nat, 2 * (m / 2 ^ k : ℝ) = n ↔ 2 * m = n * 2 ^ k := fun n => by
    rw [le_antisymm_iff, hle, hge, ← le_antisymm_iff]
  constructor
  · rintro ⟨h1, h2, h3, h4⟩
    exact ⟨⟨(hle _).mp h1, fun h => h2 ((heq _).mpr h)⟩,
      fun c hc => ⟨(hge _).mp (h3 c hc), fun h => h4 c hc ((heq _).mpr h.symm).symm⟩⟩
  · rintro ⟨⟨h1, h2⟩, h⟩
    exact ⟨(hle _).mpr h1, fun h => h2 ((heq _).mp h), fun c hc => (hge _).mpr (h c hc).1,
      fun c hc h' => (h c hc).2 ((heq _).mp h'.symm).symm⟩

/-- Rounding down: the number is not below `b` and at most at the midpoint above it. -/
theorem rounds_down {m k b : Nat} (hb : magVal b * 2 ^ k ≤ m) (hmid : 2 * m ≤ magMid b * 2 ^ k)
    (heven : 2 * m = magMid b * 2 ^ k → b % 2 = 0) : Rounds (m / 2 ^ k) b := by
  refine rounds_div_iff.mpr ⟨⟨hmid, heven⟩, ?_⟩
  rintro c rfl
  have hlt : magMid c * 2 ^ k < 2 * (magVal (c + 1) * 2 ^ k) := by
    rw [← Nat.mul_assoc]
    exact Nat.mul_lt_mul_of_pos_right (by have := magVal_lt_succ c; unfold magMid; omega) (Nat.two_pow_pos k)
  exact ⟨by omega, by omega⟩

/-- Rounding up: the number is not above `c + 1` and at least at the midpoint below it. -/
theorem rounds_up {m k c : Nat} (hb : m ≤ magVal (c + 1) * 2 ^ k) (hmid : magMid c * 2 ^ k ≤ 2 * m)
    (heven : magMid c * 2 ^ k = 2 * m → (c + 1) % 2 = 0) : Rounds (m / 2 ^ k) (c + 1) := by
  have hlt : 2 * (magVal (c + 1) * 2 ^ k) < magMid (c + 1) * 2 ^ k := by
    rw [← Nat.mul_assoc]
    exact Nat.mul_lt_mul_of_pos_right (by have := magVal_lt_succ (c + 1); unfold magMid; omega) (Nat.two_pow_pos k)
  refine rounds_div_iff.mpr ⟨⟨by omega, by omega⟩, ?_⟩
  rintro c' hc
  obtain rfl : c' = c := by omega
  exact ⟨hmid, heven⟩

/-- A number strictly between two neighbouring multiples of 2^-k units, `k ≥ 1`, rounds as the number halfway between
them does: every midpoint is such a multiple. -/
theorem Rounds.of_between {r : ℝ} {q k b : Nat} (hk : 1 ≤ k) (hlo : (q : ℝ) < r * 2 ^ k) (hhi : r * 2 ^ k < q + 1)
    (h : Rounds ((2 * q + 1 : Nat) / 2 ^ (k + 1)) b) : Rounds r b := by
  have hpos : (0 : ℝ) < 2 ^ k := by positivity
  obtain ⟨⟨habove, -⟩, hbelow⟩ := rounds_div_iff.mp h
  have hpow : ∀ n : Nat, n * 2 ^ (k + 1) = 4 * (n * 2 ^ (k - 1)) ∧ n * 2 ^ k = 2 * (n * 2 ^ (k - 1)) := fun n => by
    obtain ⟨j, rfl⟩ : ∃ j, k = j + 1 := ⟨k - 1, by omega⟩
    rw [Nat.add_sub_cancel]
    constructor <;> ring
  have hlt : 2 * r < magMid b := by
    have hint : 2 * q + 2 ≤ magMid b * 2 ^ k := by have := hpow (magMid b); omega
    have hint : (2 * q + 2 : ℝ) ≤ magMid b * 2 ^ k := by exact_mod_cast hint
    exact lt_of_mul_lt_mul_right (by linarith) hpos.le
  have hgt : ∀ c, c + 1 = b → (magMid c : ℝ) < 2 * r := fun c hc => by
    have hint : magMid c * 2 ^ k ≤ 2 * q := by have := hpow (magMid c); have := (hbelow c hc).1; omega
    have hint : (magMid c * 2 ^ k : ℝ) ≤ 2 * q := by exact_mod_cast hint
    exact lt_of_mul_lt_mul_right (by linarith) hpos.le
  exact ⟨hlt.le, fun heq => absurd heq hlt.ne, fun c hc => (hgt c hc).le, fun c hc heq => absurd heq (hgt c hc).ne⟩

end Sys2Proof.Machine
end

section
/-! # The operators give the exact result rounded once (R18, R20) -/

namespace Sys2Proof.Machine

/-! ### What `froundMag` computes -/

/-- How many low bits of the significand the rounding drops. -/
def roundShift (m k : Nat) : Nat := max k ((if m = 0 then 0 else m.log2 + 1) - 24)

/-- Whether the rounding goes up. -/
def roundsUp (m shift : Nat) (sticky : Bool) : Bool :=
  decide (1 <<< shift < 2 * (m % (1 <<< shift)))
    || (2 * (m % (1 <<< shift)) == 1 <<< shift && (sticky || (m >>> shift) % 2 == 1))

/-- The rounded magnitude before the infinity bounds it. -/
def roundUnbounded (m k : Nat) (sticky : Bool) : Nat :=
  (roundShift m k - k) * 2 ^ 23
    + (if roundsUp m (roundShift m k) sticky then m >>> roundShift m k + 1 else m >>> roundShift m k)

theorem froundMag_eq_min (m k : Nat) (sticky : Bool) :
    froundMag m k sticky = min (roundUnbounded m k sticky) 0x7F800000 := rfl

/-- The significand that is left has at most 24 bits, and exactly 24 unless no bit was dropped beyond `k`. -/
theorem roundShift_spec (m k : Nat) :
    k ≤ roundShift m k ∧ m < 2 ^ 24 * 2 ^ roundShift m k
    ∧ (roundShift m k = k ∨ 2 ^ 23 * 2 ^ roundShift m k ≤ m) := by
  unfold roundShift
  rcases Nat.eq_zero_or_pos m with rfl | hpos
  · simp
  · rw [if_neg hpos.ne', ← Nat.pow_add, ← Nat.pow_add]
    refine ⟨Nat.le_max_left _ _, ?_, ?_⟩
    · exact lt_of_lt_of_le Nat.lt_log2_self (Nat.pow_le_pow_right (by decide) (by omega))
    · rcases Nat.le_total (m.log2 + 1 - 24) k with hk | hk
      · exact .inl (Nat.max_eq_left hk)
      · rw [Nat.max_eq_right hk]
        rcases Nat.eq_zero_or_pos (m.log2 + 1 - 24) with h0 | h0
        · exact .inl (by omega)
        · exact .inr (le_trans (Nat.pow_le_pow_right (by decide) (by omega)) (Nat.log2_self_le hpos.ne'))

theorem roundsUp_iff (m shift : Nat) :
    roundsUp m shift false = true ↔
      2 ^ shift < 2 * (m % 2 ^ shift) ∨ (2 * (m % 2 ^ shift) = 2 ^ shift ∧ m / 2 ^ shift % 2 = 1) := by
  simp [roundsUp, Nat.shiftLeft_eq, Nat.shiftRight_eq_div_pow]

/-- `froundMag` without its bound is the rounding of `m` units of 2^-(149+k) (R18). -/
theorem roundUnbounded_rounds (m k : Nat) : Rounds (m / 2 ^ k) (roundUnbounded m k false) := by
  obtain ⟨hk, hlt, hnorm⟩ := roundShift_spec m k
  have hup := roundsUp_iff m (roundShift m k)
  unfold roundUnbounded
  generalize roundShift m k = shift at *
  rw [Nat.shiftRight_eq_div_pow]
  have hdiv : m / 2 ^ shift * 2 ^ shift + m % 2 ^ shift = m := Nat.div_add_mod' m _
  have hsig : m / 2 ^ shift < 2 ^ 24 := Nat.div_lt_of_lt_mul (by rwa [Nat.mul_comm])
  have hexp : shift - k = 0 ∨ 2 ^ 23 ≤ m / 2 ^ shift :=
    hnorm.imp (by omega) (Nat.le_div_iff_mul_le (Nat.two_pow_pos shift)).mpr
  have hpow : ∀ n, n * 2 ^ (shift - k) * 2 ^ k = n * 2 ^ shift := fun n => by
    rw [Nat.mul_assoc, ← Nat.pow_add, Nat.sub_add_cancel hk]
  have hrem := Nat.mod_lt m (Nat.two_pow_pos shift)
  have hval : magVal ((shift - k) * 2 ^ 23 + m / 2 ^ shift) * 2 ^ k = m / 2 ^ shift * 2 ^ shift := by
    rw [magVal_mul_add hsig.le hexp, hpow]
  have hnext : magVal ((shift - k) * 2 ^ 23 + m / 2 ^ shift + 1) * 2 ^ k = m / 2 ^ shift * 2 ^ shift + 2 ^ shift := by
    rw [Nat.add_assoc, magVal_mul_add hsig (by omega), hpow, Nat.succ_mul]
  have hmid : magMid ((shift - k) * 2 ^ 23 + m / 2 ^ shift) * 2 ^ k = 2 * (m / 2 ^ shift * 2 ^ shift) + 2 ^ shift := by
    rw [magMid, Nat.add_mul, hval, hnext]; omega
  split
  · next h =>
    have := hup.mp h
    rw [← Nat.add_assoc]
    exact rounds_up (by omega) (by omega) (by omega)
  · next h =>
    have := mt hup.mpr h
    exact rounds_down (by omega) (by omega) (by omega)

/-- A sticky value between two units rounds as the one halfway between them, with one more bit. -/
theorem froundMag_sticky (m : Nat) {k : Nat} (hk : 1 ≤ k) :
    froundMag m k true = froundMag (2 * m + 1) (k + 1) false := by
  have hshift : roundShift (2 * m + 1) (k + 1) = roundShift m k + 1 := by
    unfold roundShift
    rcases Nat.eq_zero_or_pos m with rfl | hpos
    · simp [show Nat.log2 1 = 0 by decide]
    · have hlog : (2 * m + 1).log2 = m.log2 + 1 := by
        rw [Nat.log2_def, if_pos (by omega), show (2 * m + 1) / 2 = m by omega]
      rw [if_neg hpos.ne', if_neg (by omega), hlog]
      omega
  obtain ⟨j, hj⟩ : ∃ j, roundShift m k = j + 1 := ⟨roundShift m k - 1, by have := (roundShift_spec m k).1; omega⟩
  have hsig : (2 * m + 1) / 2 ^ (j + 1 + 1) = m / 2 ^ (j + 1) := by
    rw [Nat.pow_succ' (n := j + 1), ← Nat.div_div_eq_div_mul, show (2 * m + 1) / 2 = m by omega]
  have hrem : (2 * m + 1) % 2 ^ (j + 1 + 1) = 2 * (m % 2 ^ (j + 1)) + 1 := by
    rw [Nat.pow_succ' (n := j + 1), Nat.mod_mul, show (2 * m + 1) / 2 = m by omega]
    omega
  have hup : roundsUp m (j + 1) true = roundsUp (2 * m + 1) (j + 1 + 1) false := by
    rw [Bool.eq_iff_iff, roundsUp_iff, hrem, hsig]
    simp only [roundsUp, Nat.shiftLeft_eq, Nat.one_mul, Bool.true_or, Bool.and_true, Bool.or_eq_true, decide_eq_true_eq, beq_iff_eq]
    omega
  rw [froundMag_eq_min, froundMag_eq_min, roundUnbounded, roundUnbounded, hshift, hj, hup, Nat.shiftRight_eq_div_pow,
    Nat.shiftRight_eq_div_pow, hsig, Nat.add_sub_add_right]

/-! ### Packing a rounded magnitude -/

theorem roundsTo_fpack_froundMag (neg : Bool) (m k : Nat) :
    RoundsTo neg (m / 2 ^ k) (fpack neg (froundMag m k false)) :=
  (roundUnbounded_rounds m k).roundsTo neg

/-- A real number given by the integer part of its multiple by `2^k` and whether anything is left over. -/
theorem roundsTo_fpack_sticky (neg : Bool) {r : ℝ} {q k : Nat} {sticky : Bool} (hk : 1 ≤ k)
    (hexact : sticky = false → r * 2 ^ k = q)
    (hbetween : sticky = true → (q : ℝ) < r * 2 ^ k ∧ r * 2 ^ k < q + 1) :
    RoundsTo neg r (fpack neg (froundMag q k sticky)) := by
  cases sticky with
  | false =>
    have hr : r = q / 2 ^ k := by rw [← hexact rfl, mul_div_cancel_right₀ r (by positivity)]
    rw [hr]
    exact roundsTo_fpack_froundMag neg q k
  | true =>
    obtain ⟨hlo, hhi⟩ := hbetween rfl
    rw [froundMag_sticky q hk]
    exact (Rounds.of_between hk hlo hhi (roundUnbounded_rounds _ _)).roundsTo neg

/-! ### Sum and difference -/

/-- The sum of two finite values is the sum of their units, rounded. With unlike signs the larger
magnitude decides the sign. -/
theorem faddFinite_eq (a b : F32) :
    faddFinite a b = fpack (if unitsOf a + unitsOf b = 0 then fsign a && fsign b else decide (unitsOf a + unitsOf b < 0))
      (froundMag (unitsOf a + unitsOf b).natAbs 0 false) := by
  have hcongr : ∀ {neg neg' : Bool} {m m' : Nat}, neg = neg' → m = m' →
      fpack neg (froundMag m 0 false) = fpack neg' (froundMag m' 0 false) := by rintro _ _ _ _ rfl rfl; rfl
  unfold faddFinite unitsOf
  cases fsign a <;> cases fsign b <;> simp only [if_true, if_false, Bool.false_eq_true]
  case' false.true => split
  case' true.false => split
  all_goals exact hcongr (by simp; omega) (by omega)

theorem fadd_roundsTo {a b : F32} (ha : fIsFinite a = true) (hb : fIsFinite b = true) :
    RoundsTo (if unitsOf a + unitsOf b = 0 then fsign a && fsign b else decide (unitsOf a + unitsOf b < 0))
      |((unitsOf a + unitsOf b : Int) : ℝ)| (fadd a b) := by
  have h := roundsTo_fpack_froundMag
    (if unitsOf a + unitsOf b = 0 then fsign a && fsign b else decide (unitsOf a + unitsOf b < 0))
    (unitsOf a + unitsOf b).natAbs 0
  rwa [pow_zero, div_one, Nat.cast_natAbs, Int.cast_abs, ← faddFinite_eq, ← fadd_finite ha hb] at h

theorem fsub_roundsTo {a b : F32} (ha : fIsFinite a = true) (hb : fIsFinite b = true) :
    RoundsTo (if unitsOf a - unitsOf b = 0 then fsign a && !fsign b else decide (unitsOf a - unitsOf b < 0))
      |((unitsOf a - unitsOf b : Int) : ℝ)| (fsub a b) := by
  have h := fadd_roundsTo ha (b := fneg b) (by rwa [fIsFinite_fneg])
  rwa [unitsOf_fneg, fsign_fneg, ← sub_eq_add_neg] at h

/-! ### Product and quotient -/

theorem fmul_roundsTo {a b : F32} (ha : fIsFinite a = true) (hb : fIsFinite b = true) :
    RoundsTo (fsign a != fsign b) ((fmant a : ℝ) * (fmant b : ℝ) / 2 ^ 149) (fmul a b) := by
  rw [fmul_finite ha hb]
  exact_mod_cast roundsTo_fpack_froundMag (fsign a != fsign b) (fmant a * fmant b) 149

/-- A quotient in quarter units: its integer part, and a sticky bit for what is left over. -/
theorem fdiv_roundsTo {a b : F32} (ha : fIsFinite a = true) (hb : fIsFinite b = true) (h0 : fmagBits b ≠ 0) :
    RoundsTo (fsign a != fsign b) ((fmant a : ℝ) * 2 ^ 149 / (fmant b : ℝ)) (fdiv a b) := by
  have hb0 : 0 < fmant b := Nat.pos_of_ne_zero (mt magVal_eq_zero_iff.mp h0)
  have hpos : (0 : ℝ) < fmant b := by exact_mod_cast hb0
  rw [fdiv_finite ha hb h0]
  have hdiv := Nat.div_add_mod (fmant a <<< 151) (fmant b)
  have hlt := Nat.mod_lt (fmant a <<< 151) hb0
  have hquarters : (fmant a : ℝ) * (2 : ℝ) ^ 149 / fmant b * (2 : ℝ) ^ 2 = (fmant a <<< 151 : Nat) / fmant b := by
    rw [Nat.shiftLeft_eq]
    push_cast
    ring
  generalize fmant a <<< 151 = n at *
  have hexact : (n : ℝ) = fmant b * (n / fmant b : Nat) + (n % fmant b : Nat) := by exact_mod_cast hdiv.symm
  have hltR : ((n % fmant b : Nat) : ℝ) < fmant b := by exact_mod_cast hlt
  refine roundsTo_fpack_sticky _ (by decide) (fun hs => ?_) (fun hs => ?_) <;> rw [hquarters]
  · have hrem : n % fmant b = 0 := by simpa using hs
    rw [div_eq_iff hpos.ne', hexact, hrem]
    push_cast
    ring
  · have hrem : n % fmant b ≠ 0 := by simpa using hs
    have hremR : (0 : ℝ) < (n % fmant b : Nat) := by exact_mod_cast Nat.pos_of_ne_zero hrem
    rw [lt_div_iff₀ hpos, div_lt_iff₀ hpos]
    constructor <;> nlinarith

/-! ### Root -/

/-- Each bit is kept if the square stays at or below `n`. -/
theorem isqrtFrom_spec (n b r : Nat) (hlo : r * r ≤ n) (hhi : n < (r + 2 ^ b) * (r + 2 ^ b)) :
    isqrtFrom n b r * isqrtFrom n b r ≤ n ∧ n < (isqrtFrom n b r + 1) * (isqrtFrom n b r + 1) := by
  induction b generalizing r with
  | zero => exact ⟨hlo, by simpa [isqrtFrom] using hhi⟩
  | succ b ih =>
    simp only [isqrtFrom, Nat.shiftLeft_eq, Nat.one_mul]
    split
    · next hle => exact ih _ hle (by rwa [Nat.add_assoc, ← Nat.two_mul, ← Nat.pow_succ'])
    · next hgt => exact ih _ hlo (not_le.mp hgt)

theorem isqrt_spec (n : Nat) : isqrt n * isqrt n ≤ n ∧ n < (isqrt n + 1) * (isqrt n + 1) := by
  refine isqrtFrom_spec n _ 0 (Nat.zero_le n) ?_
  rw [Nat.zero_add, ← Nat.pow_add]
  exact lt_of_lt_of_le Nat.lt_log2_self (Nat.pow_le_pow_right (by decide) (by omega))

/-- A root in half units: the integer root, and a sticky bit unless the square is exact. -/
theorem fsqrt_roundsTo {x : F32} (hx : fIsFinite x = true) (hs : fsign x = false) :
    RoundsTo false (Real.sqrt ((fmant x : ℝ) * 2 ^ 149)) (fsqrt x) := by
  by_cases h0 : fmagBits x = 0
  · have hzero : x = fpack false (froundMag 0 0 false) := by
      rw [show froundMag 0 0 false = 0 from rfl, ← hs, ← h0, fpack_fsign_fmagBits]
    have h := roundsTo_fpack_froundMag false 0 0
    rw [← hzero] at h
    rw [fsqrt_zero h0, fmant_eq_magVal, h0]
    simpa using h
  · have hsqrt : fsqrt x = fpack false (froundMag (isqrt (fmant x <<< 151)) 1
        (isqrt (fmant x <<< 151) * isqrt (fmant x <<< 151) != fmant x <<< 151)) := by
      simp [fsqrt, not_nan_of_finite hx, not_inf_of_finite hx, h0, hs]
    have hhalves : Real.sqrt ((fmant x : ℝ) * (2 : ℝ) ^ 149) * (2 : ℝ) ^ 1 = Real.sqrt (fmant x <<< 151 : Nat) := by
      rw [Nat.shiftLeft_eq, show ((fmant x * 2 ^ 151 : Nat) : ℝ) = (fmant x * 2 ^ 149) * 2 ^ 2 by push_cast; ring,
        Real.sqrt_mul (x := fmant x * 2 ^ 149) (by positivity), Real.sqrt_sq (by norm_num), pow_one]
    obtain ⟨hlo, hhi⟩ := isqrt_spec (fmant x <<< 151)
    rw [hsqrt]
    generalize fmant x <<< 151 = n at *
    refine roundsTo_fpack_sticky false (by decide) (fun hexact => ?_) (fun hsticky => ?_) <;> rw [hhalves]
    · have hsq : isqrt n * isqrt n = n := by simpa using hexact
      rw [Real.sqrt_eq_iff_mul_self_eq (by positivity) (by positivity)]
      exact_mod_cast hsq.symm
    · have hsq : isqrt n * isqrt n ≠ n := by simpa using hsticky
      have hlt : isqrt n * isqrt n < n := lt_of_le_of_ne hlo hsq
      constructor
      · exact Real.lt_sqrt_of_sq_lt (by rw [pow_two]; exact_mod_cast hlt)
      · rw [Real.sqrt_lt' (by positivity), pow_two]
        exact_mod_cast hhi

/-! ### Conversion of an integer -/

/-- An integer below 2^24 has a finite magnitude of exactly its value (R20). -/
theorem exists_magVal_eq {n : Nat} (h : n < 2 ^ 24) : ∃ z < 0x7F800000, magVal z = n * 2 ^ 149 := by
  rcases Nat.eq_zero_or_pos n with rfl | hpos
  · exact ⟨0, by decide, by simp⟩
  · have hlog : n.log2 < 24 := (Nat.log2_lt hpos.ne').mpr h
    have hpow : n * 2 ^ (23 - n.log2) * 2 ^ (126 + n.log2) = n * 2 ^ 149 := by
      rw [Nat.mul_assoc, ← Nat.pow_add, show 23 - n.log2 + (126 + n.log2) = 149 by omega]
    have hlo : 2 ^ 23 ≤ n * 2 ^ (23 - n.log2) := by
      calc 2 ^ 23 = 2 ^ n.log2 * 2 ^ (23 - n.log2) := by rw [← Nat.pow_add, Nat.add_sub_cancel' (by omega)]
        _ ≤ _ := Nat.mul_le_mul_right _ (Nat.log2_self_le hpos.ne')
    have hhi : n * 2 ^ (23 - n.log2) < 2 ^ 24 := by
      calc _ < 2 ^ (n.log2 + 1) * 2 ^ (23 - n.log2) :=
            Nat.mul_lt_mul_of_pos_right Nat.lt_log2_self (Nat.two_pow_pos _)
        _ = 2 ^ 24 := by rw [← Nat.pow_add, show n.log2 + 1 + (23 - n.log2) = 24 by omega]
    exact ⟨(126 + n.log2) * 2 ^ 23 + n * 2 ^ (23 - n.log2), by omega,
      by rw [magVal_mul_add hhi.le (.inr hlo), hpow]⟩

/-- A magnitude rounds to itself. -/
theorem froundMag_magVal {z : Nat} (hz : z < 0x7F800000) : froundMag (magVal z) 0 false = z := by
  have h := roundUnbounded_rounds (magVal z) 0
  rw [pow_zero, div_one] at h
  rw [froundMag_eq_min, h.eq_of_exact, Nat.min_eq_left hz.le]

theorem f32OfNat_exact {n : Nat} (h : n < 2 ^ 24) :
    fIsFinite (f32OfNat n) = true ∧ fsign (f32OfNat n) = false ∧ fmant (f32OfNat n) = n * 2 ^ 149 := by
  obtain ⟨z, hz, hval⟩ := exists_magVal_eq h
  have hlt : z < 2 ^ 31 := by omega
  rw [f32OfNat, Nat.shiftLeft_eq, ← hval, froundMag_magVal hz, fIsFinite_iff, fmant_eq_magVal, fmagBits_fpack hlt]
  exact ⟨hz, fsign_fpack hlt, rfl⟩

/-! ### The rounding of a magnitude, in integers -/

/-- Half an ulp above the largest finite value is where the infinity begins. -/
theorem froundMag_eq_inf_iff (m k : Nat) : froundMag m k false = 0x7F800000 ↔ (2 ^ 25 - 1) * 2 ^ (252 + k) ≤ m := by
  have hover := (roundUnbounded_rounds m k).overflow_iff
  have hcast : ((2 ^ 25 - 1) * 2 ^ 252 * 2 ^ k : ℝ) = (((2 ^ 25 - 1) * 2 ^ 252 * 2 ^ k : Nat) : ℝ) := by
    push_cast; norm_num
  rw [le_div_iff₀ (by positivity), hcast, Nat.cast_le] at hover
  rw [froundMag_eq_min, min_eq_right_iff, hover, Nat.pow_add, ← Nat.mul_assoc]

/-- A distance in units of 2^-(149+k), as a distance of real numbers. -/
theorem natDist_eq (v m k : Nat) :
    ((|((v * 2 ^ k : Nat) : Int) - m| : Int) : ℝ) = |(v : ℝ) - m / 2 ^ k| * 2 ^ k := by
  have hpos : (0 : ℝ) < 2 ^ k := by positivity
  rw [← abs_of_pos hpos, ← abs_mul, abs_of_pos hpos, sub_mul, div_mul_cancel₀ _ hpos.ne']
  push_cast
  rfl

theorem fpack_false (mag : Nat) : fpack false mag = BitVec.ofNat 32 mag := rfl

theorem froundMag_nearest {m k : Nat} (y : F32) (h : froundMag m k false < 0x7F800000) :
    |((fmant (BitVec.ofNat 32 (froundMag m k false)) * 2 ^ k : Nat) : Int) - m| ≤ |((fmant y * 2 ^ k : Nat) : Int) - m|
    ∧ (|((fmant (BitVec.ofNat 32 (froundMag m k false)) * 2 ^ k : Nat) : Int) - m|
          = |((fmant y * 2 ^ k : Nat) : Int) - m| →
        fmant y ≠ fmant (BitVec.ofNat 32 (froundMag m k false)) → froundMag m k false % 2 = 0) := by
  have hb : froundMag m k false = roundUnbounded m k false := by
    rw [froundMag_eq_min] at h ⊢
    omega
  have hpos : (0 : ℝ) < 2 ^ k := by positivity
  have hmant : fmant (BitVec.ofNat 32 (froundMag m k false)) = magVal (froundMag m k false) := by
    rw [fmant_eq_magVal, ← fpack_false,
      fmagBits_fpack (by omega)]
  obtain ⟨hle, heven⟩ := (roundUnbounded_rounds m k).nearest (fmagBits y)
  rw [hmant, hb]
  constructor
  · have hle := mul_le_mul_of_nonneg_right hle hpos.le
    rw [← natDist_eq, ← natDist_eq] at hle
    exact_mod_cast hle
  · intro heq
    apply heven
    apply mul_right_cancel₀ hpos.ne'
    rw [← natDist_eq, ← natDist_eq]
    exact_mod_cast heq

/-- Settles O57: each operator packs a rounded magnitude, and a rounded magnitude is nearest. -/
theorem roundingIsNearest : Obligations.RoundingIsNearest := by
  unfold Obligations.RoundingIsNearest
  exact ⟨froundMag_eq_inf_iff, fun m k y h _ => froundMag_nearest y h, fun m k hk => froundMag_sticky m hk, isqrt_spec,
    fun a b ha hb => ⟨fadd_roundsTo ha hb, fsub_roundsTo ha hb, fmul_roundsTo ha hb, fdiv_roundsTo ha hb⟩,
    fun x hx hs => fsqrt_roundsTo hx hs, fun n h => f32OfNat_exact h⟩

end Sys2Proof.Machine
end

section
/-! # What the steps of a cycle change (R220)

One case for each kind of change a completed command and the later steps of a cycle can make, so that an invariant is
checked against each kind once. -/

namespace Sys2Proof.Machine

/-! ### The commands -/

/-- What a completed command changes when it leaves the DSP history state, the images and TICK_CNT alone; a FIFO within
its capacity stays within it. -/
structure CommandTouches (s t : State) : Prop where
  frame : t = { s with irqStatus := t.irqStatus, cmdErr := t.cmdErr, decErr := t.decErr, seqTx := t.seqTx, cnt := t.cnt,
                       dec := t.dec, txFifo := t.txFifo, pending := t.pending, now := t.now }
  bounded : s.FifoBounded → t.FifoBounded

theorem CommandTouches.refl (s : State) : CommandTouches s s := ⟨rfl, id⟩

theorem CommandTouches.trans {s t u : State} (h : CommandTouches s t) (h' : CommandTouches t u) :
    CommandTouches s u := by
  refine ⟨?_, h'.bounded ∘ h.bounded⟩
  rw [h'.frame, h.frame]

theorem finishCommand_touches (s : State) : CommandTouches s s.finishCommand := ⟨rfl, id⟩

theorem encodeFrame_touches (s : State) (opcode : Byte) {t : FrameType} {payload : List Byte}
    (hp : payload.length = t.len) : CommandTouches s (s.encodeFrame opcode t payload) := by
  obtain ⟨_, _, _, _, _, _, e⟩ := encodeFrame_frame s opcode t payload
  exact ⟨by rw [e], encodeFrame_bounded s opcode t payload hp⟩

theorem featImage_length (s : State) : s.featImage.length = 68 := memReadBytes_length ..
theorem auxImage_length (s : State) : s.auxImage.length = 36 := memReadBytes_length ..
theorem txRaw_length (s : State) (n : Nat) : (s.txRaw n).length = n := memReadBytes_length ..
theorem commandPayload_length (c : TxCmd) : (commandPayload c).length = 68 := rfl

theorem autoFeature_touches (s : State) : CommandTouches s s.autoFeature := by
  unfold State.autoFeature
  split
  · exact encodeFrame_touches s _ (featImage_length s)
  · exact .refl s

theorem autoAux_touches (s : State) : CommandTouches s s.autoAux := by
  unfold State.autoAux
  split
  · exact encodeFrame_touches s _ (auxImage_length s)
  · exact .refl s

/-- The kinds of change the completion of a command with the given OP can make: a RESET_DSP clears, a legal ANALYZE
ticks, and each leaves the rest to `CommandTouches`. -/
inductive CommandEffect (op : Byte) (s : State) : State → Prop
  | records (t : State) (h : CommandTouches s t) : CommandEffect op s t
  | clear (t : State) (h : CommandTouches s.clearDsp t) : CommandEffect op s t
  | tick (t : State) (hop : op = 0x01#8) (h : CommandTouches (s.analyzeTick Config.num.fn) t) : CommandEffect op s t

theorem decodeCommand_analyze {op : Byte} {typ : BitVec 2} (h : decodeCommand op typ = .ok .analyze) : op = 0x01#8 := by
  by_contra hop
  unfold decodeCommand at h
  rw [if_neg hop] at h
  revert h
  (repeat' refine ite_ne ?_ ?_) <;> (intro h; cases h)

theorem analyze_effect (s : State) : CommandEffect 0x01#8 s (s.analyze Config.num.fn).finishCommand := by
  unfold State.analyze
  split
  · exact .records _ ⟨rfl, id⟩
  · exact .tick _ rfl (((autoFeature_touches _).trans (autoAux_touches _)).trans (finishCommand_touches _))

theorem encodeFrame_effect (op opcode : Byte) (s : State) {t : FrameType} {payload : List Byte}
    (hp : payload.length = t.len) : CommandEffect op s (s.encodeFrame opcode t payload).finishCommand :=
  .records _ ((encodeFrame_touches s opcode hp).trans (finishCommand_touches _))

theorem exec_command_effect {op : Byte} {typ : BitVec 2} {i : Instr} (h : decodeCommand op typ = .ok i) {s t : State}
    (ht : exec i s = .next t) : CommandEffect op s t := by
  cases i with
  | nop => cases ht; exact .records _ (finishCommand_touches s)
  | analyze => cases ht; rw [decodeCommand_analyze h]; exact analyze_effect s
  | sendFeature => cases ht; exact encodeFrame_effect op _ s (featImage_length s)
  | sendAux => cases ht; exact encodeFrame_effect op _ s (auxImage_length s)
  | sendCommand => cases ht; exact encodeFrame_effect op _ s (commandPayload_length _)
  | sendRawFeature => cases ht; exact encodeFrame_effect op _ s (txRaw_length s _)
  | sendRawCommand => cases ht; exact encodeFrame_effect op _ s (txRaw_length s _)
  | sendRawAux => cases ht; exact encodeFrame_effect op _ s (txRaw_length s _)
  | resetDsp => cases ht; exact .clear _ (finishCommand_touches _)
  | resetDecoder => cases ht; exact .records _ ⟨rfl, id⟩
  | clearCounters => cases ht; exact .records _ ⟨rfl, id⟩
  | resetSeq => cases ht; exact .records _ ⟨rfl, id⟩
  | flushTx => cases ht; exact .records _ ⟨rfl, fun _ => Nat.zero_le _⟩
  | frameFeature seq payload crc eof => exact absurd h (decodeCommand_not_frame op typ .feature seq payload crc eof)
  | frameCommand seq payload crc eof => exact absurd h (decodeCommand_not_frame op typ .command seq payload crc eof)
  | frameAux seq payload crc eof => exact absurd h (decodeCommand_not_frame op typ .aux seq payload crc eof)

/-- The engine's step does nothing, or completes the pending command (R401). -/
theorem engineStep_effect {complete : Bool} {s t : State} (h : engineStep complete s = .next t) :
    t = s ∨ (complete = true ∧ ∃ p, s.pending = some p ∧ CommandEffect p.op s t) := by
  cases complete with
  | false => cases h; exact .inl rfl
  | true =>
    cases hp : s.pending with
    | none =>
      rw [engineStep_idle true s hp] at h
      cases h; exact .inl rfl
    | some p =>
      refine .inr ⟨rfl, p, rfl, ?_⟩
      unfold engineStep at h
      rw [hp] at h
      cases hd : decodeCommand p.op p.typ with
      | ok i => simp only [hd] at h; exact exec_command_effect hd h
      | error e => simp only [hd] at h; cases h; exact .records _ ⟨rfl, id⟩

/-! ### The steps after the engine's -/

/-- Addresses of words in the windows the host may write: PCLASS_LUT, TX_RAW, BIN RAM below `N_BINS` (R126, R130, R133). -/
def HostWord (nBins a : Nat) : Prop :=
  (0x400 ≤ a ∧ a + 4 ≤ 0x600) ∨ (0x880 ≤ a ∧ a + 4 ≤ 0x8C4) ∨ (0x1000 ≤ a ∧ a + 4 ≤ 0x1000 + 4 * nBins)

/-- The kinds of change a write to an engine-owned register can make (R140, R202). -/
inductive OwnedWrite (s : State) : State → Prop
  | ctrl (w : Word) : OwnedWrite s (s.writeCtrl w)
  | txCmd (c : TxCmd) : OwnedWrite s { s with txCmd := c }
  | config (c : DspConfig) (h : s.cfg.susN ≠ 0#8 → c.susN ≠ 0#8) : OwnedWrite s (s.setCfg c)
  | bandRange (i : Fin 12) (r : BinRange) : OwnedWrite s (s.writeBandRange i r)
  | word (a : Nat) (w : Word) (h : HostWord s.param.nBins a) : OwnedWrite s (s.writeMem a (bytesOfWord w))

/-- The kinds of change the decoder makes: in its own part of the state, where event bits are set and none is cleared, and
in the snapshot of a frame type (R151, R712, R806). -/
inductive RxEffect (s : State) : State → Prop
  | decoder (t : State) (h : DecoderTouches s t) (hmem : t.mem = s.mem) (hirq : ∃ bits, t.irqStatus = s.irqStatus ||| bits) :
      RxEffect s t
  | snapshot (ft : FrameType) (payload : List Byte) (h : payload.length = ft.len) :
      RxEffect s (s.writeMem (rxBase ft) payload)

/-- A chain of changes of the decoder. -/
abbrev RxEffects : State → State → Prop := Relation.ReflTransGen RxEffect

/-- A change of the decoder that sets no event bit. -/
theorem RxEffect.silent {s t : State} (h : DecoderTouches s t) (hmem : t.mem = s.mem) (hirq : t.irqStatus = s.irqStatus) :
    RxEffect s t :=
  .decoder t h hmem ⟨0#7, hirq.trans BitVec.or_zero.symm⟩

/-- A change of the decoder that raises an event. -/
theorem RxEffect.raises {s t : State} (bits : BitVec 7) (h : DecoderTouches s t) (hmem : t.mem = s.mem)
    (hirq : t.irqStatus = s.irqStatus ||| bits) : RxEffect s t :=
  .decoder t h hmem ⟨bits, hirq⟩

/-- The kinds of change the host access, the `rx` byte, the `tx` pop and the strobe of a cycle are made of. -/
inductive RestEffect (s : State) : State → Prop
  | status (t : State) (h : t = { s with irqStatus := t.irqStatus, irqEnable := t.irqEnable, cmdErr := t.cmdErr,
                                         staleTimeout := t.staleTimeout, now := t.now, port := t.port }) : RestEffect s t
  | pop (port : PortOut) : RestEffect s { s.popTx with port := port }
  | rx (t : State) (h : RxEffect s t) : RestEffect s t
  | issue (p : CmdWord) (hidle : s.pending = none) : RestEffect s { s with pending := some p }
  | owned (t : State) (hidle : s.pending = none) (h : OwnedWrite s t) : RestEffect s t

/-- A chain of such changes. -/
abbrev RestEffects : State → State → Prop := Relation.ReflTransGen RestEffect

theorem RxEffects.rest {s t : State} (h : RxEffects s t) : RestEffects s t :=
  Relation.ReflTransGen.mono (fun _ v heff => RestEffect.rx v heff) s t h

theorem receiveFrame_effects (s : State) {ft : FrameType} (seq : Byte) {payload : List Byte} (crc : BitVec 16)
    (eof : Byte) (h : payload.length = ft.len) : RxEffects s (s.receiveFrame ft seq payload crc eof) := by
  unfold State.receiveFrame
  split
  · exact .single (.raises irqRxErr rfl rfl rfl)
  · split
    · exact .single (.raises irqRxErr rfl rfl rfl)
    · exact .tail (.single (.snapshot ft payload h)) (.raises (irqRx ft) rfl rfl rfl)

theorem evaluate_effects (n : Nat) {s t : State} (h : evaluate n s = .next t) : RxEffects s t := by
  induction n generalizing s with
  | zero => cases h; exact .refl
  | succ n ih =>
    rcases decodeCandidate_cases s.dec.bytes with ⟨_, ft, seq, p, lo, hi, e, rest, -, hlen, hd⟩
        | ⟨_, _, _, _, -, -, hd⟩ | ⟨_, _, _, _, _, -, -, hd⟩ | ⟨-, hd⟩
    · simp only [evaluate, hd, exec_mkFrame, andThen] at h
      exact (receiveFrame_effects s seq _ e hlen).trans (ih h)
    · simp only [evaluate, hd] at h; cases h; exact .refl
    · simp only [evaluate, hd] at h
      exact .head (.raises (t := (s.raiseDecError .lengthMismatch).resync) irqRxErr rfl rfl rfl) (ih h)
    · simp only [evaluate, hd] at h; cases h; exact .refl

theorem byteStep_effects {x : Byte} {s t : State} (h : byteStep x s = .next t) : RxEffects s t := by
  unfold byteStep at h
  split at h
  · split at h <;> (cases h; exact .single (.silent rfl rfl rfl))
  · split at h
    · exact .head (.silent (appended_touches s _) rfl rfl) (evaluate_effects _ h)
    · cases h

theorem rxPortStep_effects {x : Byte} {s t : State} (h : rxPortStep x s = .next t) : RxEffects s t := by
  unfold rxPortStep at h
  split at h
  · exact byteStep_effects h
  · cases h; exact .refl

theorem rxPushStep_effects {x : Byte} {s t : State} (h : rxPushStep x s = .next t) : RxEffects s t := by
  unfold rxPushStep at h
  split at h
  · exact byteStep_effects h
  · cases h; exact .refl

theorem issueCommand_effect (s : State) (w : Word) : RestEffect s (s.issueCommand w) := by
  unfold State.issueCommand
  split
  · exact .status _ rfl
  · next hidle => exact .issue _ hidle

theorem legalSusN_ne_zero (b : Byte) : legalSusN b ≠ 0#8 := by
  unfold legalSusN
  split
  · decide
  · assumption

theorem hostWord_of_window {nBins base n : Nat} (k : Fin n)
    (h : base = 0x400 ∧ n = 128 ∨ base = 0x880 ∧ n = 17) : HostWord nBins (base + 4 * k.val) := by
  have := k.isLt
  unfold HostWord
  omega

theorem writeBin_owned (s : State) (b : Fin 1024) (w : Word) : s.writeBin b w = s ∨ OwnedWrite s (s.writeBin b w) := by
  unfold State.writeBin
  split
  · next hb => exact .inr (.word _ w (by unfold HostWord binBase; omega))
  · exact .inl rfl

/-- A write to an engine-owned register, accepted. -/
theorem storeReg_owned {r : Reg} (hr : r.engineOwned = true) {w : Word} {s t : State} (h : s.storeReg w r = .next t) :
    t = s ∨ OwnedWrite s t := by
  cases r
  case ctrl => cases h; exact .inr (.ctrl w)
  case txCmd => cases h; exact .inr (.txCmd _)
  case bandRange i => cases h; exact .inr (.bandRange i _)
  case susN => cases h; exact .inr (.config _ fun _ => legalSusN_ne_zero _)
  case pclassLut k => cases h; exact .inr (.word _ w (hostWord_of_window k (.inl ⟨rfl, rfl⟩)))
  case txRaw k => cases h; exact .inr (.word _ w (hostWord_of_window k (.inr ⟨rfl, rfl⟩)))
  case bin b => cases h; exact writeBin_owned s b w
  all_goals first
    | (cases h; exact .inr (.config _ id))
    | exact absurd hr (by decide)

/-- A write to any other register. -/
theorem storeReg_free {r : Reg} (hr : r.engineOwned = false) {w : Word} {s t : State} (h : s.storeReg w r = .next t) :
    RestEffects s t := by
  cases r
  case cmd => cases h; exact .single (issueCommand_effect s w)
  case rxPush => exact (rxPushStep_effects h).rest
  all_goals first
    | (cases h; exact .single (.status _ rfl))
    | exact nomatch hr

theorem writeReg_effects {r : Reg} {w : Word} {s t : State} (h : s.writeReg r w = .next t) : RestEffects s t := by
  cases hr : r.engineOwned with
  | false =>
    rw [writeReg_free s r w hr] at h
    exact storeReg_free hr h
  | true =>
    cases hp : s.pending with
    | none =>
      rw [writeReg_idle s r w hp] at h
      rcases storeReg_owned hr h with rfl | hown
      · exact .refl
      · exact .single (.owned t hp hown)
    | some p =>
      simp only [State.writeReg, State.busy, hr, hp, Option.isSome_some, Bool.and_self, if_true] at h
      cases h
      exact .single (.status _ rfl)

theorem afterRead_effects (s : State) (r : Reg) : RestEffects s (s.afterRead r) := by
  unfold State.afterRead
  split
  · split
    · exact .single (.pop s.port)
    · exact .refl
  · exact .refl

theorem hostAccess_effects {a : HostAccess} {s t : State} (h : hostAccess a s = .next t) : RestEffects s t := by
  unfold hostAccess at h
  cases a with
  | read addr width =>
    dsimp only at h
    split at h <;> cases h
    · exact .tail (afterRead_effects s _) (.status _ rfl)
    · exact .single (.status _ rfl)
  | write addr width data =>
    dsimp only at h
    split at h
    · exact .head (.status (s.respond 0#32 false) rfl) (writeReg_effects h)
    · cases h; exact .single (.status _ rfl)

theorem hostStep_effects {a : Option HostAccess} {s t : State} (h : hostStep a s = .next t) : RestEffects s t := by
  cases a with
  | none => cases h; exact .refl
  | some a => exact hostAccess_effects h

theorem rxStep_effects {x : Option Byte} {s t : State} (h : rxStep x s = .next t) : RxEffects s t := by
  cases x with
  | none => cases h; exact .refl
  | some x => exact rxPortStep_effects h

theorem txStep_effects (ready : Bool) (s : State) : RestEffects s (txStep ready s) := by
  unfold txStep
  split
  · exact .single (.pop _)
  · exact .refl

theorem timebaseStep_effects (s : State) : RxEffects s (timebaseStep s) := by
  unfold timebaseStep
  split
  · exact .refl
  · split
    · split
      · exact .single (.raises irqRxErr rfl rfl rfl)
      · exact .single (.silent rfl rfl rfl)
    · exact .refl

theorem tickStep_effects (tick : Bool) (s : State) : RxEffects s (tickStep tick s) := by
  unfold tickStep
  split
  · exact timebaseStep_effects s
  · exact .refl

theorem restOfCycle_effects {c : Cycle} {s t : State} (h : restOfCycle c s = .next t) : RestEffects s t := by
  obtain ⟨u, hhost, h⟩ := andThen_eq_next.mp h
  obtain ⟨v, hrx, h⟩ := andThen_eq_next.mp h
  cases h
  exact (((hostStep_effects hhost).trans (rxStep_effects hrx).rest).trans (txStep_effects _ v)).trans
    (tickStep_effects _ _).rest

/-! ### The cycle -/

theorem RestEffects.keeps {P : State → Prop} (hrest : ∀ u v, P u → RestEffect u v → P v) {s t : State}
    (h : RestEffects s t) (hs : P s) : P t := by
  induction h with
  | refl => exact hs
  | tail _ hlast ih => exact hrest _ _ ih hlast

/-- What holds after a reset, at the beginning of a cycle and after a completed command, and is kept by every change the
rest of a cycle can make, holds after the cycle. -/
theorem step_keeps {P : State → Prop} {s t : State} (h : step s = .next t)
    (hreset : s.cycleNow.rst = true → P (s.startCycle.resetCycle s.cycleNow)) (hstart : P s.startCycle)
    (hcommand : ∀ p u, s.cycleNow.complete = true → s.pending = some p → CommandEffect p.op s.startCycle u → P u)
    (hrest : ∀ u v, P u → RestEffect u v → P v) : P t := by
  rw [step_eq, runCycle] at h
  split at h
  · next hrst => cases h; exact hreset hrst
  · obtain ⟨u, hengine, h⟩ := andThen_eq_next.mp h
    have hu : P u := by
      rcases engineStep_effect hengine with rfl | ⟨hc, p, hp, heff⟩
      · exact hstart
      · exact hcommand p u hc hp heff
    exact RestEffects.keeps hrest (restOfCycle_effects h) hu

end Sys2Proof.Machine
end

section
/-! # The invariants of memory and of the payload images (10_state.md R155, notes/assumptions/8.md) -/

namespace Sys2Proof.Machine

/-! ### What a command and the rest of a cycle leave alone -/

theorem CommandTouches.mem {s t : State} (h : CommandTouches s t) : t.mem = s.mem := by rw [h.frame]
theorem CommandTouches.dsp {s t : State} (h : CommandTouches s t) : t.dsp = s.dsp := by rw [h.frame]
theorem CommandTouches.ctrl {s t : State} (h : CommandTouches s t) : t.ctrl = s.ctrl := by rw [h.frame]
theorem CommandTouches.cfg {s t : State} (h : CommandTouches s t) : t.cfg = s.cfg := by rw [h.frame]
theorem CommandTouches.param {s t : State} (h : CommandTouches s t) : t.param = s.param := by rw [h.frame]
theorem CommandTouches.tickCnt {s t : State} (h : CommandTouches s t) : t.tickCnt = s.tickCnt := by rw [h.frame]

/-! ### A write to CTRL or BAND_RANGE -/

theorem regroupBands_eq (s : State) (new : Ctrl) :
    s.regroupBands new = if s.ctrl.nbands ≠ new.nbands then s.clearDsp else s := rfl

theorem disableRx_frame (s : State) (new : Ctrl) : s.disableRx new = { s with dec := (s.disableRx new).dec } := by
  unfold State.disableRx
  split <;> rfl

theorem regroupBands_frame (s : State) (new : Ctrl) :
    s.regroupBands new = { s with dsp := (s.regroupBands new).dsp, mem := (s.regroupBands new).mem } := by
  rw [regroupBands_eq]
  split
  · simp only [State.clearDsp]
  · rfl

/-- A write to CTRL changes CTRL, the decoder, the history and the images alone (R103, R104). -/
theorem writeCtrl_frame (s : State) (w : Word) :
    s.writeCtrl w = { s with ctrl := ctrlOfWord s.ctrl w, dec := (s.writeCtrl w).dec, dsp := (s.writeCtrl w).dsp,
                             mem := (s.writeCtrl w).mem } := by
  unfold State.writeCtrl
  simp only
  rw [regroupBands_frame, disableRx_frame]

/-- A change of NBANDS re-groups (R104). -/
theorem writeCtrl_regroups {s : State} {w : Word} (h : s.ctrl.nbands ≠ (ctrlOfWord s.ctrl w).nbands) :
    (s.writeCtrl w).dsp = DspHistory.reset ∧ (s.writeCtrl w).mem = resetImages s.mem := by
  unfold State.writeCtrl
  simp only
  rw [regroupBands_eq, disableRx_frame, if_pos h]
  simp only [State.clearDsp, and_self]

theorem writeCtrl_keeps_history {s : State} {w : Word} (h : s.ctrl.nbands = (ctrlOfWord s.ctrl w).nbands) :
    (s.writeCtrl w).dsp = s.dsp ∧ (s.writeCtrl w).mem = s.mem := by
  unfold State.writeCtrl
  simp only
  rw [regroupBands_eq, disableRx_frame, if_neg (not_not.mpr h)]
  exact ⟨rfl, rfl⟩

/-- A write to BAND_RANGE[i] changes that range, the history and the images alone (R124). -/
theorem writeBandRange_frame (s : State) (i : Fin 12) (r : BinRange) :
    s.writeBandRange i r = { s with cfg := { s.cfg with bandRange := s.cfg.bandRange.set i.val r },
                                    dsp := (s.writeBandRange i r).dsp, mem := (s.writeBandRange i r).mem } := by
  unfold State.writeBandRange
  split
  · simp only [State.clearDsp]
  · rfl

/-- A change of a band range re-groups (R124). -/
theorem writeBandRange_regroups {s : State} {i : Fin 12} {r : BinRange} (h : s.cfg.bandRange[i] ≠ r) :
    (s.writeBandRange i r).dsp = DspHistory.reset ∧ (s.writeBandRange i r).mem = resetImages s.mem := by
  unfold State.writeBandRange
  rw [if_pos h]
  simp only [State.clearDsp, and_self]

theorem writeBandRange_keeps_history {s : State} {i : Fin 12} {r : BinRange} (h : s.cfg.bandRange[i] = r) :
    (s.writeBandRange i r).dsp = s.dsp ∧ (s.writeBandRange i r).mem = s.mem := by
  unfold State.writeBandRange
  rw [if_neg (not_not.mpr h)]
  exact ⟨rfl, rfl⟩

/-! ### Memory -/

/-- Memory in canonical form that lists nothing outside the data windows: `State.MemoryInv` as a property of memory. -/
def WindowsOnly (nBins : Nat) (m : Memory) : Prop :=
  Memory.wf m = true ∧ m.all (fun c => inWindow nBins c.1) = true

theorem windowsOnly_writeBytes {n : Nat} {m : Memory} (h : WindowsOnly n m) {a : Nat} {bs : List Byte}
    (hw : ∀ k, k < bs.length → inWindow n (a + k) = true) : WindowsOnly n (memWriteBytes m a bs) :=
  ⟨memWriteBytes_wf _ _ _ h.1, memWriteBytes_inWindow _ _ _ _ h.2 hw⟩

theorem inWindow_iff (n a : Nat) : inWindow n a = true ↔
    (0x400 ≤ a ∧ a < 0x600) ∨ (0x600 ≤ a ∧ a < 0x644) ∨ (0x680 ≤ a ∧ a < 0x6A4) ∨ (0x700 ≤ a ∧ a < 0x744)
      ∨ (0x780 ≤ a ∧ a < 0x7C4) ∨ (0x800 ≤ a ∧ a < 0x824) ∨ (0x880 ≤ a ∧ a < 0x8C4)
      ∨ (0x1000 ≤ a ∧ a < 0x1000 + 4 * n) := by
  unfold inWindow
  simp only [Bool.or_eq_true, Bool.and_eq_true, decide_eq_true_eq, or_assoc]

theorem windowsOnly_feat {n : Nat} {m : Memory} (h : WindowsOnly n m) {bs : List Byte} (hl : bs.length = 68) :
    WindowsOnly n (memWriteBytes m featImgBase bs) :=
  windowsOnly_writeBytes h fun k hk => (inWindow_iff _ _).mpr (by unfold featImgBase; omega)

theorem windowsOnly_aux {n : Nat} {m : Memory} (h : WindowsOnly n m) {bs : List Byte} (hl : bs.length = 36) :
    WindowsOnly n (memWriteBytes m auxImgBase bs) :=
  windowsOnly_writeBytes h fun k hk => (inWindow_iff _ _).mpr (by unfold auxImgBase; omega)

theorem windowsOnly_resetImages {n : Nat} {m : Memory} (h : WindowsOnly n m) : WindowsOnly n (resetImages m) :=
  windowsOnly_aux (windowsOnly_feat h rfl) rfl

/-- A snapshot lies in the window of its frame type (R129). -/
theorem rxBase_window (ft : FrameType) :
    (rxBase ft = 0x700 ∨ rxBase ft = 0x780) ∧ ft.len = 68 ∨ rxBase ft = 0x800 ∧ ft.len = 36 := by
  cases ft <;> decide

theorem windowsOnly_snapshot {n : Nat} {m : Memory} (h : WindowsOnly n m) {ft : FrameType} {bs : List Byte}
    (hl : bs.length = ft.len) : WindowsOnly n (memWriteBytes m (rxBase ft) bs) :=
  windowsOnly_writeBytes h fun k hk => (inWindow_iff _ _).mpr (by have := rxBase_window ft; omega)

theorem windowsOnly_hostWord {n : Nat} {m : Memory} (h : WindowsOnly n m) {a : Nat} (w : Word) (ha : HostWord n a) :
    WindowsOnly n (memWriteBytes m a (bytesOfWord w)) :=
  windowsOnly_writeBytes h fun k hk => (inWindow_iff _ _).mpr (by
    have hk : k < 4 := hk
    unfold HostWord at ha
    omega)

theorem commandEffect_memoryInv {op : Byte} {s t : State} (hs : s.MemoryInv) (h : CommandEffect op s t) :
    t.MemoryInv := by
  have key : ∀ u : State, CommandTouches u t → WindowsOnly u.param.nBins u.mem → t.MemoryInv := by
    intro u h hu
    unfold State.MemoryInv
    rw [h.mem, h.param]
    exact hu
  cases h with
  | records h => exact key _ h hs
  | clear h => exact key _ h (by rw [clearDsp_mem, clearDsp_param]; exact windowsOnly_resetImages hs)
  | tick _ h => exact key _ h (windowsOnly_aux (windowsOnly_feat hs (tickFeat_length _ s)) (tickAux_length _ s))

theorem ownedWrite_memoryInv {s t : State} (hs : s.MemoryInv) (h : OwnedWrite s t) : t.MemoryInv := by
  cases h with
  | ctrl w =>
    rw [writeCtrl_frame]
    show WindowsOnly s.param.nBins (s.writeCtrl w).mem
    by_cases hn : s.ctrl.nbands = (ctrlOfWord s.ctrl w).nbands
    · rw [(writeCtrl_keeps_history hn).2]; exact hs
    · rw [(writeCtrl_regroups hn).2]; exact windowsOnly_resetImages hs
  | txCmd c => exact hs
  | config c _ => exact hs
  | bandRange i r =>
    rw [writeBandRange_frame]
    show WindowsOnly s.param.nBins (s.writeBandRange i r).mem
    by_cases hr : s.cfg.bandRange[i] = r
    · rw [(writeBandRange_keeps_history hr).2]; exact hs
    · rw [(writeBandRange_regroups hr).2]; exact windowsOnly_resetImages hs
  | word a w h => exact windowsOnly_hostWord hs w h

theorem rxEffect_memoryInv {s t : State} (hs : s.MemoryInv) (h : RxEffect s t) : t.MemoryInv := by
  cases h with
  | decoder _ h hmem _ =>
    unfold State.MemoryInv
    rw [hmem, h]
    exact hs
  | snapshot ft payload h => exact windowsOnly_snapshot hs h

theorem restEffect_memoryInv {s t : State} (hs : s.MemoryInv) (h : RestEffect s t) : t.MemoryInv := by
  cases h with
  | status _ h => rw [h]; exact hs
  | pop port => exact hs
  | rx _ h => exact rxEffect_memoryInv hs h
  | issue p _ => exact hs
  | owned _ _ h => exact ownedWrite_memoryInv hs h

/-- Settles O42: every write of a cycle stays inside the data windows, and the writes themselves keep the form. -/
theorem memoryInvariantKept : Obligations.MemoryInvariantKept := by
  unfold Obligations.MemoryInvariantKept
  intro s t hs h
  refine step_keeps h (fun _ => ⟨rfl, rfl⟩) hs (fun p u _ _ heff => ?_) (fun u v hu heff => restEffect_memoryInv hu heff)
  exact commandEffect_memoryInv (s := s.startCycle) hs heff

/-! ### The payload images -/

theorem getD_flatMap_bytesOfWord (xs : List F32) {i j : Nat} (hi : i < xs.length) (hj : j < 4) (rest : List Byte) :
    (xs.flatMap bytesOfWord ++ rest).getD (4 * i + j) 0#8 = wordByte (xs[i]) j := by
  induction xs generalizing i with
  | nil => cases hi
  | cons x xs ih =>
    rw [List.flatMap_cons, List.append_assoc]
    cases i with
    | zero =>
      have : j = 0 ∨ j = 1 ∨ j = 2 ∨ j = 3 := by omega
      rcases this with rfl | rfl | rfl | rfl <;> rfl
    | succ i =>
      rw [List.getD_append_right _ _ _ _ (by simp [bytesOfWord]; omega)]
      have : 4 * (i + 1) + j - (bytesOfWord x).length = 4 * i + j := by simp [bytesOfWord]; omega
      rw [this, ih (by simpa using hi), List.getElem_cons_succ]

/-- The first 48 bytes of a FEATURE payload are the words of `band_sm` (R320). -/
theorem featFields_band (h : DspHistory) (onset : Bool) (chroma : Vector Byte 12) (dom pstr : Byte) (i : Fin 12)
    {j : Nat} (hj : j < 4) :
    (featFields h onset chroma dom pstr).getD (4 * i.val + j) 0#8 = wordByte h.bandSm[i] j := by
  unfold featFields
  simp only [List.append_assoc]
  rw [getD_flatMap_bytesOfWord _ (by simp) hj]
  simp

/-- FEAT_IMG's band words after a tick are the new `band_sm` (R402). -/
theorem memReadWord_feat_band (log1p : F32 → F32) (s : State) (i : Fin 12) :
    memReadWord (s.analyzeTick log1p).mem (featImgBase + 4 * i.val) = (s.tickHistory log1p).bandSm[i] := by
  have hbyte : ∀ j < 4, memRead (s.analyzeTick log1p).mem (featImgBase + 4 * i.val + j)
      = wordByte (s.tickHistory log1p).bandSm[i] j := by
    intro j hj
    have := i.isLt
    have hread := memRead_feat s.mem (s.tickFeat log1p) (s.tickAux log1p) (tickFeat_length _ _) (4 * i.val + j) (by omega)
    rw [Nat.add_assoc]
    exact hread.trans (featFields_band _ _ _ _ _ i hj)
  unfold memReadWord
  rw [hbyte 1 (by omega), hbyte 2 (by omega), hbyte 3 (by omega)]
  rw [show memRead (s.analyzeTick log1p).mem (featImgBase + 4 * i.val) = _ from hbyte 0 (by omega)]
  exact wordOfBytes_wordByte _

/-- FEAT_IMG's band words are `+0.0` in the reset image (R127). -/
theorem memReadWord_resetImages_band (m : Memory) (i : Fin 12) :
    memReadWord (resetImages m) (featImgBase + 4 * i.val) = 0#32 := by
  have hbyte : ∀ x, 0x600 ≤ x → x < 0x630 → memRead (resetImages m) x = 0#8 := by
    intro x h1 h2
    rw [memRead_resetImages, if_pos (by omega)]
    unfold memResetByte
    rw [if_neg (by omega), if_neg (by omega)]
  have := i.isLt
  unfold memReadWord featImgBase
  rw [hbyte _ (by omega) (by omega), hbyte _ (by omega) (by omega), hbyte _ (by omega) (by omega),
    hbyte _ (by omega) (by omega)]
  rfl

theorem tickHistory_inactive (log1p : F32 → F32) (s : State) (i : Fin 12) (hi : s.ctrl.nbands.toNat ≤ i.val) :
    (s.tickHistory log1p).bandSm[i] = 0#32 ∧ (s.tickHistory log1p).vis[i] = 0#32 := by
  have hn : ¬ i.val < s.activeBands := by unfold State.activeBands; omega
  refine ⟨?_, ?_⟩
  · show s.tickBandSm[i] = _
    unfold State.tickBandSm smoothBands
    rw [vec12_getElem, if_neg hn]; rfl
  · show (s.tickVis log1p)[i] = _
    unfold State.tickVis nextVis
    rw [vec12_getElem, if_neg hn]; rfl

theorem analyzeTick_imagesInv (log1p : F32 → F32) (s : State) : (s.analyzeTick log1p).ImagesInv :=
  ⟨fun i hi => tickHistory_inactive log1p s i hi, fun i => memReadWord_feat_band log1p s i⟩

theorem replicate_zero_getElem (i : Fin 12) : (Vector.replicate 12 (0#32 : F32))[i] = 0#32 :=
  Vector.getElem_replicate ..

/-- With the reset history and the reset images the invariant holds whatever NBANDS is. -/
theorem imagesInv_of_clear {t : State} {m : Memory} (hdsp : t.dsp = DspHistory.reset) (hmem : t.mem = resetImages m) :
    t.ImagesInv := by
  unfold State.ImagesInv
  rw [hdsp, hmem]
  refine ⟨fun i _ => ⟨replicate_zero_getElem i, replicate_zero_getElem i⟩, fun i => ?_⟩
  rw [memReadWord_resetImages_band]
  exact (replicate_zero_getElem i).symm

/-- The invariant depends on NBANDS, on the history and on FEAT_IMG's band words alone. -/
theorem imagesInv_congr {s t : State} (hs : s.ImagesInv) (hn : t.ctrl.nbands = s.ctrl.nbands) (hdsp : t.dsp = s.dsp)
    (hmem : ∀ x, 0x600 ≤ x → x < 0x630 → memRead t.mem x = memRead s.mem x) : t.ImagesInv := by
  unfold State.ImagesInv
  rw [hn, hdsp]
  refine ⟨hs.1, fun i => ?_⟩
  rw [← hs.2 i]
  have := i.isLt
  exact memReadWord_congr _ _ _ fun x h1 h2 => hmem x (by unfold featImgBase at h1; omega) (by unfold featImgBase at h2; omega)

theorem commandEffect_imagesInv {op : Byte} {s t : State} (hs : s.ImagesInv) (h : CommandEffect op s t) :
    t.ImagesInv := by
  have key : ∀ u : State, CommandTouches u t → u.ImagesInv → t.ImagesInv := fun u h hu =>
    imagesInv_congr hu (by rw [h.ctrl]) h.dsp fun x _ _ => by rw [h.mem]
  cases h with
  | records h => exact key s h hs
  | clear h => exact key _ h (imagesInv_of_clear (clearDsp_dsp s) (clearDsp_mem s))
  | tick _ h => exact key _ h (analyzeTick_imagesInv _ s)

/-- A re-grouping clears what a new NBANDS or band range would contradict (R104, R124). -/
theorem ownedWrite_imagesInv {s t : State} (hs : s.ImagesInv) (h : OwnedWrite s t) : t.ImagesInv := by
  cases h with
  | ctrl w =>
    by_cases hn : s.ctrl.nbands = (ctrlOfWord s.ctrl w).nbands
    · obtain ⟨hdsp, hmem⟩ := writeCtrl_keeps_history hn
      exact imagesInv_congr hs hn.symm hdsp fun _ _ _ => by rw [hmem]
    · obtain ⟨hdsp, hmem⟩ := writeCtrl_regroups hn
      exact imagesInv_of_clear hdsp hmem
  | txCmd c => exact hs
  | config c _ => exact hs
  | bandRange i r =>
    by_cases hr : s.cfg.bandRange[i] = r
    · obtain ⟨hdsp, hmem⟩ := writeBandRange_keeps_history hr
      refine imagesInv_congr hs ?_ hdsp fun _ _ _ => by rw [hmem]
      rw [writeBandRange_frame]
    · obtain ⟨hdsp, hmem⟩ := writeBandRange_regroups hr
      exact imagesInv_of_clear hdsp hmem
  | word a w h =>
    refine imagesInv_congr hs rfl rfl fun x h1 h2 => memRead_writeBytes_outside _ _ ?_
    have hlen : (bytesOfWord w).length = 4 := rfl
    unfold HostWord at h
    omega

/-- The decoder writes the history nowhere and memory in the snapshots alone (R129, R712). -/
theorem RxEffect.keeps_data {s t : State} (h : RxEffect s t) :
    t = { s with dec := t.dec, decErr := t.decErr, cnt := t.cnt, mem := t.mem, seqRx := t.seqRx,
                 irqStatus := t.irqStatus, now := t.now }
    ∧ ∀ x, x < 0x700 ∨ 0x824 ≤ x → memRead t.mem x = memRead s.mem x := by
  cases h with
  | decoder _ h hmem _ => exact ⟨h, fun _ _ => by rw [hmem]⟩
  | snapshot ft payload h =>
    refine ⟨rfl, fun x hx => memRead_writeBytes_outside _ _ ?_⟩
    have := rxBase_window ft
    omega

theorem rxEffect_imagesInv {s t : State} (hs : s.ImagesInv) (h : RxEffect s t) : t.ImagesInv := by
  obtain ⟨hframe, hmem⟩ := h.keeps_data
  exact imagesInv_congr hs (by rw [hframe]) (by rw [hframe]) fun x _ hx => hmem x (.inl (by omega))

theorem restEffect_imagesInv {s t : State} (hs : s.ImagesInv) (h : RestEffect s t) : t.ImagesInv := by
  cases h with
  | status _ h => rw [h]; exact hs
  | pop port => exact hs
  | rx _ h => exact rxEffect_imagesInv hs h
  | issue p _ => exact hs
  | owned _ _ h => exact ownedWrite_imagesInv hs h

theorem resetWith_imagesInv (p : Param) : (State.resetWith p).ImagesInv :=
  have h : State.reset.ImagesInv := by decide +kernel
  h

/-- Settles O43: a tick writes `band_sm` into FEAT_IMG and `+0.0` into the inactive bands; a re-grouping and a RESET_DSP
clear history and images together; nothing else writes either. -/
theorem imagesInvariantKept : Obligations.ImagesInvariantKept := by
  unfold Obligations.ImagesInvariantKept
  intro s t hs h
  refine step_keeps h (fun _ => resetWith_imagesInv s.param) hs (fun p u _ _ heff => ?_)
    (fun u v hu heff => restEffect_imagesInv hu heff)
  exact commandEffect_imagesInv (s := s.startCycle) hs heff

end Sys2Proof.Machine
end

section
/-! # Further whole-machine rules: legal values, a pending command's operands, TICK_CNT -/

namespace Sys2Proof.Machine

theorem CommandTouches.setup {s t : State} (h : CommandTouches s t) :
    t.param = s.param ∧ t.ctrl = s.ctrl ∧ t.cfg = s.cfg := ⟨h.param, h.ctrl, h.cfg⟩

/-- A command changes neither the parameters nor the configuration. -/
theorem CommandEffect.setup {op : Byte} {s t : State} (h : CommandEffect op s t) :
    t.param = s.param ∧ t.ctrl = s.ctrl ∧ t.cfg = s.cfg := by
  cases h with
  | records h => exact h.setup
  | clear h => simpa only [clearDsp_param, clearDsp_ctrl, clearDsp_cfg] using h.setup
  | tick _ h => exact h.setup

theorem CommandEffect.bounded {op : Byte} {s t : State} (h : CommandEffect op s t) (hs : s.FifoBounded) :
    t.FifoBounded := by
  cases h with
  | records h => exact h.bounded hs
  | clear h => exact h.bounded (by unfold State.FifoBounded; rw [clearDsp_txFifo, clearDsp_param]; exact hs)
  | tick _ h => exact h.bounded hs

theorem CommandEffect.tickCnt {op : Byte} {s t : State} (h : CommandEffect op s t) :
    t.tickCnt = s.tickCnt ∨ (t.tickCnt = s.tickCnt + 1#32 ∧ op = 0x01#8) := by
  cases h with
  | records h => exact .inl h.tickCnt
  | clear h => exact .inl (h.tickCnt.trans (clearDsp_tickCnt s))
  | tick hop h => exact .inr ⟨h.tickCnt, hop⟩

theorem OwnedWrite.frame {s t : State} (h : OwnedWrite s t) :
    t = { s with ctrl := t.ctrl, dec := t.dec, txCmd := t.txCmd, cfg := t.cfg, dsp := t.dsp, mem := t.mem } := by
  cases h with
  | ctrl w => rw [writeCtrl_frame]
  | txCmd c => rfl
  | config c _ => rfl
  | bandRange i r => rw [writeBandRange_frame]
  | word a w _ => rfl

theorem RestEffect.param_tickCnt {s t : State} (h : RestEffect s t) : t.param = s.param ∧ t.tickCnt = s.tickCnt := by
  cases h with
  | status _ h => rw [h]; exact ⟨rfl, rfl⟩
  | pop port => exact ⟨rfl, rfl⟩
  | rx _ h => rw [h.keeps_data.1]; exact ⟨rfl, rfl⟩
  | issue p _ => exact ⟨rfl, rfl⟩
  | owned _ _ h => rw [h.frame]; exact ⟨rfl, rfl⟩

/-- Bytes leave the FIFO at its front, and none enters, after the engine's step. -/
theorem RestEffect.txFifo_suffix {s t : State} (h : RestEffect s t) : t.txFifo <:+ s.txFifo := by
  cases h with
  | status _ h => rw [h]
  | pop port => exact List.tail_suffix _
  | rx _ h => rw [h.keeps_data.1]
  | issue p _ => exact List.suffix_refl _
  | owned _ _ h => rw [h.frame]

/-! ### Legal values (R102, R104, R121, R152) -/

theorem legalNbands_legal {old new : BitVec 4} (h : 1#4 ≤ old ∧ old ≤ 12#4) :
    1#4 ≤ legalNbands old new ∧ legalNbands old new ≤ 12#4 := by
  unfold legalNbands
  split
  · assumption
  · exact h

theorem OwnedWrite.fieldsLegal {s t : State} (h : OwnedWrite s t) (hs : s.FieldsLegal) : t.FieldsLegal := by
  obtain ⟨hlo, hhi, hsus⟩ := hs
  cases h with
  | ctrl w =>
    rw [writeCtrl_frame]
    obtain ⟨hlo', hhi'⟩ := legalNbands_legal (new := w.extractLsb' 8 4) ⟨hlo, hhi⟩
    exact ⟨hlo', hhi', hsus⟩
  | txCmd c => exact ⟨hlo, hhi, hsus⟩
  | config c h => exact ⟨hlo, hhi, h hsus⟩
  | bandRange i r => rw [writeBandRange_frame]; exact ⟨hlo, hhi, hsus⟩
  | word a w _ => exact ⟨hlo, hhi, hsus⟩

theorem RestEffect.fieldsLegal {s t : State} (h : RestEffect s t) (hs : s.FieldsLegal) : t.FieldsLegal := by
  cases h with
  | status _ h => rw [h]; exact hs
  | pop port => exact hs
  | rx _ h => rw [h.keeps_data.1]; exact hs
  | issue p _ => exact hs
  | owned _ _ h => exact h.fieldsLegal hs

theorem RestEffect.bounded {s t : State} (h : RestEffect s t) (hs : s.FifoBounded) : t.FifoBounded := by
  unfold State.FifoBounded
  rw [h.param_tickCnt.1]
  exact h.txFifo_suffix.length_le.trans hs

theorem resetWith_fieldsLegal (p : Param) : (State.resetWith p).FieldsLegal :=
  have h : State.reset.FieldsLegal := by decide
  h

theorem CommandEffect.fieldsLegal {op : Byte} {s t : State} (h : CommandEffect op s t) (hs : s.FieldsLegal) :
    t.FieldsLegal := by
  obtain ⟨-, hctrl, hcfg⟩ := h.setup
  unfold State.FieldsLegal
  rw [hctrl, hcfg]
  exact hs

/-- Settles O44: each kind of change keeps the parameters, the legal values and the bound. -/
theorem legalValuesKept : Obligations.LegalValuesKept := by
  unfold Obligations.LegalValuesKept
  intro s t h
  refine ⟨?_, fun hs => ?_, fun hs => ?_⟩
  · exact step_keeps (P := fun u => u.param = s.param) h (fun _ => rfl) rfl
      (fun _ _ _ _ heff => heff.setup.1) (fun _ _ hu heff => heff.param_tickCnt.1.trans hu)
  · exact step_keeps h (fun _ => resetWith_fieldsLegal s.param) hs
      (fun _ _ _ _ heff => heff.fieldsLegal hs) (fun _ _ hu heff => heff.fieldsLegal hu)
  · exact step_keeps h (fun _ => Nat.zero_le _) hs
      (fun _ _ _ _ heff => heff.bounded hs) (fun _ _ hu heff => heff.bounded hu)

/-! ### The operands of a pending command (R140, R211) -/

/-- `u` holds what the pending command of `s` will read: the command itself, its configuration, history, sequence
counters and data windows, and at most the free space of the FIFO has grown. -/
structure KeepsOperands (s u : State) : Prop where
  pending : u.pending = s.pending
  ctrl : u.ctrl = s.ctrl
  txCmd : u.txCmd = s.txCmd
  cfg : u.cfg = s.cfg
  dsp : u.dsp = s.dsp
  tickCnt : u.tickCnt = s.tickCnt
  seqTx : u.seqTx = s.seqTx
  txFifo : u.txFifo <:+ s.txFifo
  mem : ∀ a, (0x400 ≤ a ∧ a < 0x700) ∨ (0x880 ≤ a ∧ a < 0x8C4) ∨ 0x1000 ≤ a → memRead u.mem a = memRead s.mem a

theorem KeepsOperands.trans {s t u : State} (h : KeepsOperands s t) (h' : KeepsOperands t u) : KeepsOperands s u :=
  ⟨h'.pending.trans h.pending, h'.ctrl.trans h.ctrl, h'.txCmd.trans h.txCmd, h'.cfg.trans h.cfg, h'.dsp.trans h.dsp,
    h'.tickCnt.trans h.tickCnt, h'.seqTx.trans h.seqTx, h'.txFifo.trans h.txFifo,
    fun a ha => (h'.mem a ha).trans (h.mem a ha)⟩

/-- With a command pending nothing after the engine's step reaches its operands. -/
theorem RestEffect.keepsOperands {s t : State} (hbusy : s.pending ≠ none) (h : RestEffect s t) : KeepsOperands s t := by
  have hfifo := h.txFifo_suffix
  cases h with
  | status _ h => rw [h]; exact ⟨rfl, rfl, rfl, rfl, rfl, rfl, rfl, List.suffix_refl _, fun _ _ => rfl⟩
  | pop port => exact ⟨rfl, rfl, rfl, rfl, rfl, rfl, rfl, hfifo, fun _ _ => rfl⟩
  | rx _ h =>
    obtain ⟨hframe, hmem⟩ := h.keeps_data
    rw [hframe]
    exact ⟨rfl, rfl, rfl, rfl, rfl, rfl, rfl, List.suffix_refl _, fun a ha => hmem a (by omega)⟩
  | issue p hidle => exact absurd hidle hbusy
  | owned _ hidle _ => exact absurd hidle hbusy

/-- Settles O46: the host cannot write the operands while the engine is busy (R140), and the decoder owns none. -/
theorem pendingCommandSeesItsConfiguration : Obligations.PendingCommandSeesItsConfiguration := by
  unfold Obligations.PendingCommandSeesItsConfiguration
  intro s t hrst hwait hbusy h
  have hkeep : KeepsOperands s t := by
    refine step_keeps (P := KeepsOperands s) h (fun hon => ?_)
      ⟨rfl, rfl, rfl, rfl, rfl, rfl, rfl, List.suffix_refl _, fun _ _ => rfl⟩ (fun _ _ hdone => ?_)
      (fun u v hu heff => hu.trans (heff.keepsOperands (hu.pending ▸ hbusy)))
    · rw [hrst] at hon; cases hon
    · rw [hwait] at hdone; cases hdone
  exact ⟨hkeep.pending, hkeep.ctrl, hkeep.txCmd, hkeep.cfg, hkeep.dsp, hkeep.tickCnt, hkeep.seqTx, hkeep.txFifo,
    hkeep.mem⟩

/-- Settles O47: a tick is the one change of TICK_CNT, and it is part of a completed ANALYZE. -/
theorem tickCountCountsAnalyze : Obligations.TickCountCountsAnalyze := by
  unfold Obligations.TickCountCountsAnalyze
  intro s t hrst h
  refine step_keeps (P := fun u => u.tickCnt = s.tickCnt
      ∨ (u.tickCnt = s.tickCnt + 1#32 ∧ s.cycleNow.complete = true ∧ ∃ p, s.pending = some p ∧ p.op = 0x01#8)) h
    (fun hon => ?_) (.inl rfl) (fun p u hdone hp heff => ?_) (fun u v hu heff => ?_)
  · rw [hrst] at hon; cases hon
  · rcases heff.tickCnt with hsame | ⟨hcount, hop⟩
    · exact .inl hsame
    · exact .inr ⟨hcount, hdone, p, hp, hop⟩
  · rw [heff.param_tickCnt.2]; exact hu

/-! ### The reset state -/

/-- Settles O45: memory lists nothing, history and decoder are at their reset values. -/
theorem resetIsSafe : Obligations.ResetIsSafe := by
  unfold Obligations.ResetIsSafe
  intro p hp
  exact ⟨hp, resetWith_fieldsLegal p, Nat.zero_le _, decoderInv_of_reset rfl, ⟨rfl, rfl⟩, resetWith_imagesInv p⟩

end Sys2Proof.Machine
end

section
/-! # Which register stands at which offset (10_state.md R100), and the host bus (20_memory.md R201 to R206) -/

namespace Sys2Proof.Machine

/-! ### The register at an offset -/

/-- The map of R100 as a relation: a register of one word at its offset, a word of an array at its place. -/
inductive Located : Nat → Reg → Prop
  | single {a : Nat} {r : Reg} (h : (a, r) ∈ singleRegs) : Located a r
  | bandRange (i : Fin 12) : Located (0x1C0 + 4 * i.val) (.bandRange i)
  | tilt (i : Fin 12) : Located (0x200 + 4 * i.val) (.tilt i)
  | pclassLut (w : Fin 128) : Located (0x400 + 4 * w.val) (.pclassLut w)
  | featImg (w : Fin 17) : Located (0x600 + 4 * w.val) (.featImg w)
  | auxImg (w : Fin 9) : Located (0x680 + 4 * w.val) (.auxImg w)
  | rxFeat (w : Fin 17) : Located (0x700 + 4 * w.val) (.rxFeat w)
  | rxCmd (w : Fin 17) : Located (0x780 + 4 * w.val) (.rxCmd w)
  | rxAux (w : Fin 9) : Located (0x800 + 4 * w.val) (.rxAux w)
  | txRaw (w : Fin 17) : Located (0x880 + 4 * w.val) (.txRaw w)
  | dbgChromaSm (p : Fin 12) : Located (0x900 + 4 * p.val) (.dbgChromaSm p)
  | dbgVisLevel (i : Fin 12) : Located (0x930 + 4 * i.val) (.dbgVisLevel i)
  | dbgDecBuf (w : Fin 19) : Located (0xA00 + 4 * w.val) (.dbgDecBuf w)
  | bin (b : Fin 1024) : Located (0x1000 + 4 * b.val) (.bin b)

theorem mem_of_lookup_eq_some {l : List (Nat × Reg)} {n : Nat} {r : Reg} (h : l.lookup n = some r) : (n, r) ∈ l := by
  induction l with
  | nil => cases h
  | cons p l ih =>
    rw [List.lookup_cons] at h
    cases hp : n == p.1 with
    | true =>
      rw [hp] at h
      cases h
      rw [eq_of_beq hp]
      exact List.mem_cons_self
    | false =>
      rw [hp] at h
      exact List.mem_cons_of_mem _ (ih h)

theorem firstReg_mem (l : List (Option Reg)) : firstReg l = .reserved ∨ some (firstReg l) ∈ l := by
  induction l with
  | nil => exact .inl rfl
  | cons o l ih =>
    cases o with
    | some r => exact .inr List.mem_cons_self
    | none => exact ih.imp_right (List.mem_cons_of_mem _)

theorem inArray_eq_some {base n off : Nat} {mk : Fin n → Reg} {r : Reg} (haligned : off % 4 = 0) (hbase : base % 4 = 0)
    (h : some r = inArray base n mk off) : ∃ i : Fin n, off = base + 4 * i.val ∧ r = mk i := by
  unfold inArray at h
  split at h
  · next hin => exact ⟨⟨(off - base) / 4, hin.2⟩, by dsimp only; omega, Option.some.inj h⟩
  · cases h

theorem arrayRegs_located {a : Nat} {r : Reg} (haligned : a % 4 = 0) (h : some r ∈ arrayRegs a) : Located a r := by
  simp only [arrayRegs, List.mem_cons, List.not_mem_nil, or_false] at h
  rcases h with h | h | h | h | h | h | h | h | h | h | h | h | h <;>
    obtain ⟨i, rfl, rfl⟩ := inArray_eq_some haligned (by decide) h
  · exact .bandRange i
  · exact .tilt i
  · exact .pclassLut i
  · exact .featImg i
  · exact .auxImg i
  · exact .rxFeat i
  · exact .rxCmd i
  · exact .rxAux i
  · exact .txRaw i
  · exact .dbgChromaSm i
  · exact .dbgVisLevel i
  · exact .dbgDecBuf i
  · exact .bin i

/-- An aligned offset holds the register the map gives it, or is reserved (R100, R134). -/
theorem regAt_located {a : Nat} (haligned : a % 4 = 0) : regAt a = .reserved ∨ Located a (regAt a) := by
  unfold regAt
  split
  · next r h => exact .inr (.single (mem_of_lookup_eq_some h))
  · exact (firstReg_mem (arrayRegs a)).imp_right (arrayRegs_located haligned)

theorem singleRegs_regs_nodup : (singleRegs.map Prod.snd).Nodup := by decide +kernel

/-- A one-word register stands at one offset. -/
theorem singleRegs_offset_unique {a b : Nat} {r : Reg} (ha : (a, r) ∈ singleRegs) (hb : (b, r) ∈ singleRegs) : a = b :=
  congrArg Prod.fst (List.inj_on_of_nodup_map singleRegs_regs_nodup ha hb rfl)

theorem reservedSpace_iff (a : Nat) : reservedSpace a = true ↔
    (0x05C ≤ a ∧ a ≤ 0x0FC) ∨ (0x190 ≤ a ∧ a ≤ 0x1BC) ∨ (0x1F0 ≤ a ∧ a ≤ 0x1FC) ∨ (0x230 ≤ a ∧ a ≤ 0x3FC)
      ∨ (0x644 ≤ a ∧ a ≤ 0x67F) ∨ (0x6A4 ≤ a ∧ a ≤ 0x6FF) ∨ (0x744 ≤ a ∧ a ≤ 0x77F) ∨ (0x7C4 ≤ a ∧ a ≤ 0x7FF)
      ∨ (0x824 ≤ a ∧ a ≤ 0x87F) ∨ (0x8C4 ≤ a ∧ a ≤ 0x8FF) ∨ (0x97C ≤ a ∧ a ≤ 0x9FF) ∨ (0xA4C ≤ a ∧ a ≤ 0xFFF) := by
  simp only [reservedSpace, inRanges, List.any_cons, List.any_nil, Bool.or_false, Bool.or_eq_true, Bool.and_eq_true,
    decide_eq_true_eq]

theorem ownedSpace_iff (a : Nat) : ownedSpace a = true ↔
    (0x008 ≤ a ∧ a ≤ 0x008) ∨ (0x034 ≤ a ∧ a ≤ 0x034) ∨ (0x100 ≤ a ∧ a ≤ 0x18C) ∨ (0x1C0 ≤ a ∧ a ≤ 0x1EC)
      ∨ (0x200 ≤ a ∧ a ≤ 0x22C) ∨ (0x400 ≤ a ∧ a ≤ 0x5FC) ∨ (0x880 ≤ a ∧ a ≤ 0x8C3) ∨ (0x1000 ≤ a ∧ a ≤ 0x1FFC) := by
  simp only [ownedSpace, inRanges, List.any_cons, List.any_nil, Bool.or_false, Bool.or_eq_true, Bool.and_eq_true,
    decide_eq_true_eq]

theorem readOnlySpace_iff (a : Nat) : readOnlySpace a = true ↔
    (0x000 ≤ a ∧ a ≤ 0x004) ∨ (0x00C ≤ a ∧ a ≤ 0x00C) ∨ (0x01C ≤ a ∧ a ≤ 0x020) ∨ (0x028 ≤ a ∧ a ≤ 0x02C)
      ∨ (0x038 ≤ a ∧ a ≤ 0x058) ∨ (0x600 ≤ a ∧ a ≤ 0x643) ∨ (0x680 ≤ a ∧ a ≤ 0x6A3) ∨ (0x700 ≤ a ∧ a ≤ 0x743)
      ∨ (0x780 ≤ a ∧ a ≤ 0x7C3) ∨ (0x800 ≤ a ∧ a ≤ 0x823) ∨ (0x900 ≤ a ∧ a ≤ 0x978) ∨ (0xA00 ≤ a ∧ a ≤ 0xA4B) := by
  simp only [readOnlySpace, inRanges, List.any_cons, List.any_nil, Bool.or_false, Bool.or_eq_true, Bool.and_eq_true,
    decide_eq_true_eq]

/-- No register of the map stands in the reserved space (R134). -/
theorem Located.not_reserved {a : Nat} {r : Reg} (h : Located a r) : reservedSpace a = false := by
  have hsingle : ∀ p ∈ singleRegs, reservedSpace p.1 = false := by decide +kernel
  cases h
  case single h => exact hsingle _ h
  all_goals
    next i =>
    have := i.isLt
    rw [Bool.eq_false_iff, Ne, reservedSpace_iff]
    omega

/-- An engine-owned register stands in the owned space (R140). -/
theorem Located.owned {a : Nat} {r : Reg} (h : Located a r) (hr : r.engineOwned = true) : ownedSpace a = true := by
  have hsingle : ∀ p ∈ singleRegs, p.2.engineOwned = true → ownedSpace p.1 = true := by decide +kernel
  cases h
  case single h => exact hsingle _ h hr
  all_goals
    next i =>
    have := i.isLt
    first
      | exact (ownedSpace_iff _).mpr (by omega)
      | cases hr

/-- The registers a write does not reach (R202). -/
def Reg.readOnly : Reg → Bool
  | .id | .param | .status | .cmdErr | .decErr | .txLevel | .txData | .seqTx | .seqRx | .tickCnt | .cntRxOk
  | .cntLenErr | .cntFrameErr | .cntCrcErr | .cntStale | .cntTxDrop | .featImg _ | .auxImg _ | .rxFeat _
  | .rxCmd _ | .rxAux _ | .dbgChromaSm _ | .dbgVisLevel _ | .dbgGlobalAvg | .dbgNoiseFloor | .dbgEnv | .dbgOnset
  | .dbgNote | .dbgSustain | .dbgDec | .dbgDecBuf _ | .reserved => true
  | _ => false

theorem writeReg_readOnly {r : Reg} (hr : r.readOnly = true) (s : State) (w : Word) : s.writeReg r w = .next s := by
  have hfree : r.engineOwned = false := by
    cases r <;> first | rfl | cases hr
  rw [writeReg_free s r w hfree]
  cases r <;> first | rfl | cases hr

/-- The read-only space holds read-only registers (R100). -/
theorem Located.readOnly {a : Nat} {r : Reg} (h : Located a r) (ha : readOnlySpace a = true) : r.readOnly = true := by
  have hsingle : ∀ p ∈ singleRegs, readOnlySpace p.1 = true → p.2.readOnly = true := by decide +kernel
  cases h
  case single h => exact hsingle _ h ha
  all_goals
    next i =>
    have := i.isLt
    first
      | rfl
      | (rw [readOnlySpace_iff] at ha; omega)

theorem regAt_of_reservedSpace {a : Nat} (haligned : a % 4 = 0) (h : reservedSpace a = true) : regAt a = .reserved :=
  (regAt_located haligned).resolve_right fun hloc => by rw [hloc.not_reserved] at h; cases h

theorem ownedSpace_of_engineOwned {a : Nat} (haligned : a % 4 = 0) (h : (regAt a).engineOwned = true) :
    ownedSpace a = true := by
  rcases regAt_located haligned with hres | hloc
  · rw [hres] at h; cases h
  · exact hloc.owned h

theorem readOnly_of_readOnlySpace {a : Nat} (haligned : a % 4 = 0) (h : readOnlySpace a = true) :
    (regAt a).readOnly = true := by
  rcases regAt_located haligned with hres | hloc
  · rw [hres]; rfl
  · exact hloc.readOnly h

/-- Word `(a - base) / 4` of an array that begins at `base`. -/
theorem arrayWord {P : Nat → Prop} {base n a : Nat} (haligned : a % 4 = 0) (hbase : base % 4 = 0)
    (hword : ∀ i : Fin n, P (base + 4 * i.val)) (hlo : base ≤ a) (hhi : a < base + 4 * n) : P a := by
  have h := hword ⟨(a - base) / 4, by omega⟩
  have : base + 4 * ((a - base) / 4) = a := by omega
  rwa [this] at h

/-- Every word of the owned space is an engine-owned register (R140). -/
theorem engineOwned_of_ownedSpace {a : Nat} (haligned : a % 4 = 0) (h : ownedSpace a = true) :
    (regAt a).engineOwned = true := by
  have harray : ∀ base n, base % 4 = 0 → (∀ i : Fin n, (regAt (base + 4 * i.val)).engineOwned = true) → base ≤ a →
      a < base + 4 * n → (regAt a).engineOwned = true := fun _ _ hb hw =>
    arrayWord (P := fun a => (regAt a).engineOwned = true) haligned hb hw
  rcases (ownedSpace_iff a).mp h with h | h | h | h | h | h | h | h
  · rw [show a = 0x008 by omega]; rfl
  · rw [show a = 0x034 by omega]; rfl
  · exact harray 0x100 36 rfl (by decide) h.1 (by omega)
  · exact harray 0x1C0 12 rfl (fun i => by rw [regAt_bandRange]; rfl) h.1 (by omega)
  · exact harray 0x200 12 rfl (fun i => by rw [regAt_tilt]; rfl) h.1 (by omega)
  · exact harray 0x400 128 rfl (fun i => by rw [regAt_pclassLut]; rfl) h.1 (by omega)
  · exact harray 0x880 17 rfl (fun i => by rw [regAt_txRaw]; rfl) h.1 (by omega)
  · exact harray 0x1000 1024 rfl (fun i => by rw [regAt_bin]; rfl) h.1 (by omega)

/-! ### Reads, refused accesses, writes while busy -/

theorem afterRead_of_ne {s : State} {r : Reg} (h : ¬ (r = .txData ∧ s.ctrl.txSink = true)) : s.afterRead r = s := by
  unfold State.afterRead
  split
  · next => exact if_neg fun hsink => h ⟨rfl, hsink⟩
  · rfl

theorem regAt_eq_txData {a : Nat} (haligned : a % 4 = 0) (h : regAt a = .txData) : a = 0x02C := by
  have hsingle : ∀ p ∈ singleRegs, p.2 = .txData → p.1 = 0x02C := by decide +kernel
  rcases regAt_located haligned with hres | hloc
  · rw [hres] at h; cases h
  · rw [h] at hloc
    cases hloc with
    | single hmem => exact hsingle _ hmem rfl

theorem goodAccess_eq_false_iff (a : BitVec 13) (width : AccessWidth) :
    goodAccess a width = false ↔ (a.toNat % 4 ≠ 0 ∨ width ≠ .word) := by
  unfold goodAccess
  rw [Bool.and_eq_false_iff, beq_eq_false_iff_ne, beq_eq_false_iff_ne, or_comm]

/-- A read of TX_DATA takes the oldest byte with TX_SINK = 1, and has no effect with TX_SINK = 0 (R113). -/
theorem hostAccess_read_txData (s : State) : hostAccess (.read 0x02C#13 .word) s
    = .next ((if s.ctrl.txSink then s.popTx else s).answered s.txDataWord false) :=
  hostAccess_read 0x02C#13 s rfl

theorem txDataWord_of_idle {s : State} (h : s.ctrl.txSink = false ∨ s.txFifo = []) : s.txDataWord = 0#32 := by
  unfold State.txDataWord
  split
  · next hsink hfifo =>
    rcases h with h | h
    · rw [hsink] at h; cases h
    · rw [hfifo] at h; cases h
  · rfl

/-- Settles O48: a read is the register's value and the side effect of TX_DATA; a bad access only answers. -/
theorem hostReadsAndBusErrors : Obligations.HostReadsAndBusErrors := by
  unfold Obligations.HostReadsAndBusErrors
  intro s a
  refine ⟨fun haligned hnot => ?_, fun b rest hsink hfifo => ?_, fun hidle => ?_, fun width w hbad => ?_⟩
  · rw [hostAccess_read a s haligned, afterRead_of_ne]
    rintro ⟨htx, hsink⟩
    exact hnot ⟨BitVec.eq_of_toNat_eq (regAt_eq_txData haligned htx), hsink⟩
  · rw [hostAccess_read_txData, if_pos hsink]
    unfold State.txDataWord State.popTx
    rw [hsink, hfifo]
    rfl
  · rw [hostAccess_read_txData, txDataWord_of_idle hidle]
    split
    · next hsink =>
      have hempty : s.txFifo = [] := hidle.resolve_left (by rw [hsink]; decide)
      have hpop : s.popTx = s := by unfold State.popTx; rw [hempty, List.tail_nil, ← hempty]
      rw [hpop]
    · rfl
  · have hbad := (goodAccess_eq_false_iff a width).mpr hbad
    exact ⟨hostAccess_bad_read a width s hbad, hostAccess_bad_write a width w s hbad⟩

/-- A write to an engine-owned register while a command is pending is dropped with WRITE_BUSY (R140). -/
theorem writeReg_busy {s : State} {r : Reg} (hr : r.engineOwned = true) (hp : s.pending ≠ none) (w : Word) :
    s.writeReg r w = .next (s.raiseCmdError .writeBusy 0#8 0#8) := by
  obtain ⟨p, hp⟩ := Option.ne_none_iff_exists'.mp hp
  simp only [State.writeReg, State.busy, hr, hp, Option.isSome_some, Bool.and_self, if_true]

/-- A CMD write goes to the engine, busy or not (R400). -/
theorem hostAccess_write_cmd (s : State) (w : Word) :
    hostAccess (.write 0x010#13 .word w) s = .next ((s.answered 0#32 false).issueCommand w) := by
  rw [hostAccess_write 0x010#13 w s rfl, show regAt (0x010#13).toNat = .cmd from regAt_cmd, writeReg_free _ _ _ rfl]
  rfl

theorem issueCommand_busy {s : State} (hp : s.pending ≠ none) (w : Word) :
    s.issueCommand w = s.raiseCmdError .cmdBusy (opField w) 0#8 := by
  obtain ⟨p, hp⟩ := Option.ne_none_iff_exists'.mp hp
  simp only [State.issueCommand, hp]

theorem issueCommand_idle {s : State} (hp : s.pending = none) (w : Word) :
    s.issueCommand w = { s with pending := some { op := opField w, typ := typeField w } } := by
  simp only [State.issueCommand, hp]

/-- The CMD_ERR record of a CMD write while busy (R805). -/
theorem cmdErrWord_cmdBusy (op : Byte) : cmdErrWord .cmdBusy op 0#8 = 0x0000#16 ++ op ++ 0x02#8 := by
  revert op
  decide +kernel

/-- Settles O49: the owned space is the engine-owned registers, and CMD is none of them. -/
theorem busyWrites : Obligations.BusyWrites := by
  unfold Obligations.BusyWrites
  intro s a w haligned
  refine ⟨fun hp hown => ?_, fun hfree => ?_, fun hp => ?_, fun hp => ?_⟩
  · refine ⟨(s.answered 0#32 false).raiseCmdError .writeBusy 0#8 0#8, ?_, rfl⟩
    rw [hostAccess_write a w s haligned]
    exact writeReg_busy (s := s.answered 0#32 false) (engineOwned_of_ownedSpace haligned hown) hp w
  · rw [hostAccess_write a w s haligned]
    refine writeReg_free _ _ _ (Bool.eq_false_iff.mpr fun hown => ?_)
    rw [ownedSpace_of_engineOwned haligned hown] at hfree
    cases hfree
  · refine ⟨(s.answered 0#32 false).raiseCmdError .cmdBusy (opField w) 0#8, ?_, ?_⟩
    · rw [hostAccess_write_cmd, issueCommand_busy (s := s.answered 0#32 false) hp]
    · unfold State.raiseCmdError
      rw [cmdErrWord_cmdBusy]
      rfl
  · rw [hostAccess_write_cmd, issueCommand_idle (s := s.answered 0#32 false) hp]
    rfl

/-- Settles O53: the reserved space holds no register, the read-only space only read-only ones. -/
theorem reservedAndReadOnly : Obligations.ReservedAndReadOnly := by
  unfold Obligations.ReservedAndReadOnly
  intro s a w haligned
  refine ⟨fun h => ?_, fun h => ?_⟩
  · unfold State.readAt
    rw [regAt_of_reservedSpace haligned h]
    rfl
  · rw [hostAccess_write a w s haligned]
    rcases h with h | h
    · rw [regAt_of_reservedSpace haligned h]
      exact writeReg_readOnly rfl _ w
    · exact writeReg_readOnly (readOnly_of_readOnlySpace haligned h) _ w

/-! ### The event bits -/

theorem bitVec_ne_zero_iff {n : Nat} (v : BitVec n) : (v != 0#n) = true ↔ ∃ i : Fin n, v.getLsbD i.val = true := by
  rw [bne_iff_ne, Ne, ← not_iff_not, not_not, not_exists]
  constructor
  · rintro rfl i
    simp
  · intro h
    refine BitVec.eq_of_getLsbD_eq fun i hi => ?_
    simpa using h ⟨i, hi⟩

theorem hostAccess_write_irqStatus (s : State) (w : Word) :
    hostAccess (.write 0x014#13 .word w) s = .next ((s.answered 0#32 false).clearIrq (w.extractLsb' 0 7)) := by
  rw [hostAccess_write 0x014#13 w s rfl, show regAt (0x014#13).toNat = .irqStatus from regAt_irqStatus,
    writeReg_free _ _ _ rfl]
  rfl

/-- Settles O54: the output is an OR over the enabled bits, and a clear goes bit by bit. -/
theorem interruptOutput : Obligations.InterruptOutput := by
  unfold Obligations.InterruptOutput
  intro s w
  refine ⟨?_, _, hostAccess_write_irqStatus s w, rfl, fun i => ?_⟩
  · unfold State.irqOut
    rw [bitVec_ne_zero_iff]
    simp only [BitVec.getLsbD_and, Bool.and_eq_true]
  · have hw : (w.extractLsb' 0 7).getLsbD i.val = w.getLsbD i.val := by
      rw [BitVec.getLsbD_extractLsb']; simp
    show ((s.irqStatus &&& ~~~(w.extractLsb' 0 7)) ||| (s.irqStatus &&& s.now.irqRaised)).getLsbD i.val = _
    simp only [BitVec.getLsbD_or, BitVec.getLsbD_and, BitVec.getLsbD_not, hw, i.isLt, decide_true, Bool.true_and]
    exact (Bool.and_or_distrib_left ..).symm

end Sys2Proof.Machine
end

section
/-! # What accepted writes store (10_state.md R103, R104, R108 to R134), and RESET_DSP (R407) -/

namespace Sys2Proof.Machine

/-! ### Re-grouping and RESET_DSP -/

/-- The reset images leave the bytes R127 and R128 name. -/
theorem imagesCleared_resetImages (m : Memory) : ImagesCleared m (resetImages m) := by
  intro a
  rw [memRead_resetImages]
  by_cases hin : (0x600 ≤ a ∧ a < 0x644) ∨ (0x680 ≤ a ∧ a < 0x6A4)
  · rw [if_pos hin]
    unfold memResetByte
    rw [if_neg (by omega)]
    split <;> rfl
  · rw [if_neg hin, if_neg (by omega), if_neg hin]

/-- Settles O13: the command is `clearDsp` and the end of every command. -/
theorem resetDspClears : Obligations.ResetDspClears := by
  unfold Obligations.ResetDspClears
  intro s
  refine ⟨s.clearDsp.finishCommand, by simp only [exec, execResetDsp], ?_, ?_, ?_⟩
  · simp only [State.clearDsp, State.finishCommand, State.raiseIrq, State.doneWith]; rfl
  · rw [finishCommand_dsp, clearDsp_dsp]; rfl
  · rw [finishCommand_mem, clearDsp_mem]; exact imagesCleared_resetImages s.mem

/-- An aligned write with the engine empty is the register's store (R202). -/
theorem hostAccess_write_idle {s : State} (hidle : s.pending = none) (w : Word) {a : Nat} (ha : a < 0x2000)
    (haligned : a % 4 = 0) :
    hostAccess (.write (BitVec.ofNat 13 a) .word w) s = (s.answered 0#32 false).storeReg w (regAt a) := by
  have hnat : (BitVec.ofNat 13 a).toNat = a := by rw [BitVec.toNat_ofNat]; exact Nat.mod_eq_of_lt ha
  rw [hostAccess_write _ w s (by rw [hnat]; exact haligned), hnat]
  exact writeReg_idle _ _ _ hidle

theorem regroupingWrite_ctrl (s : State) (w : Word) (hidle : s.pending = none) :
    hostAccess (.write 0x008#13 .word w) s = .next ((s.answered 0#32 false).writeCtrl w) :=
  hostAccess_write_idle hidle w (a := 0x008) (by decide) rfl

/-- Settles O50: the frames of the two writes, and `clearDsp` where the stored grouping changes. -/
theorem regroupingWrites : Obligations.RegroupingWrites := by
  unfold Obligations.RegroupingWrites
  intro s w hidle
  refine ⟨⟨_, regroupingWrite_ctrl s w hidle, writeCtrl_frame _ w, rfl, ?_, ?_, ?_⟩, fun i => ?_⟩
  · rw [writeCtrl_dec]
    show (if (s.ctrl.rxEn && !w.getLsbD 0) = true then Decoder.reset else s.dec) = _
    simp only [Bool.and_eq_true, Bool.not_eq_true']
    rfl
  · intro hne
    obtain ⟨hdsp, hmem⟩ := writeCtrl_regroups (s := s.answered 0#32 false) (w := w) (Ne.symm hne)
    rw [hdsp, hmem]
    exact ⟨rfl, imagesCleared_resetImages s.mem⟩
  · intro heq
    exact writeCtrl_keeps_history (s := s.answered 0#32 false) (w := w) heq.symm
  · have hi := i.isLt
    refine ⟨(s.answered 0#32 false).writeBandRange i (rangeOfWord w), ?_, ?_, ?_, ?_, ?_⟩
    · rw [hostAccess_write_idle hidle w (by omega) (by omega), regAt_bandRange]
      rfl
    · rw [writeBandRange_frame]
    · rw [writeBandRange_frame]; rfl
    · intro hne
      obtain ⟨hdsp, hmem⟩ := writeBandRange_regroups (s := s.answered 0#32 false) (r := rangeOfWord w) hne
      rw [hdsp, hmem]
      exact ⟨rfl, imagesCleared_resetImages s.mem⟩
    · intro heq
      exact writeBandRange_keeps_history (s := s.answered 0#32 false) heq

/-! ### The bits a register keeps -/

/-- A register's low field reads back as the written word under its mask. -/
theorem zero_append_low {k n : Nat} (hkn : 32 = k + n) (w : Word) :
    0#k ++ w.extractLsb' 0 n = (w &&& BitVec.ofNat 32 (2 ^ n - 1)).cast hkn := by
  have hpow : 2 ^ n ≤ 2 ^ 32 := Nat.pow_le_pow_right (by decide) (by omega)
  have hpos : 0 < 2 ^ n := Nat.pow_pos (by decide)
  apply BitVec.eq_of_toNat_eq
  rw [BitVec.toNat_append, BitVec.toNat_cast, BitVec.toNat_and, BitVec.toNat_ofNat, BitVec.toNat_ofNat,
    BitVec.extractLsb'_toNat, Nat.mod_eq_of_lt (a := 2 ^ n - 1) (by omega), Nat.and_two_pow_sub_one_eq_mod]
  simp

theorem wordOfRange_rangeOfWord (w : Word) : wordOfRange (rangeOfWord w) = w &&& 0x03FF03FF#32 := by
  have hmask : ∀ i : Fin 32,
      (0x03FF03FF#32).getLsbD i.val = (decide (i.val < 10) || decide (16 ≤ i.val ∧ i.val < 26)) := by decide
  apply BitVec.eq_of_getLsbD_eq
  intro i hi
  rw [BitVec.getLsbD_and, hmask ⟨i, hi⟩]
  show (0#6 ++ w.extractLsb' 16 10 ++ 0#6 ++ w.extractLsb' 0 10).getLsbD i = _
  simp only [BitVec.getLsbD_append, BitVec.getLsbD_extractLsb', BitVec.getLsbD_zero]
  by_cases h1 : i < 10
  · simp [h1]
  · by_cases h2 : i < 16
    · simp [h1, h2, show i - 10 < 6 by omega]
    · by_cases h3 : i < 26
      · simp [h1, h3, show 16 ≤ i by omega, show ¬ i - 10 < 6 by omega, show i - 10 - 6 < 10 by omega,
          show 16 + (i - 10 - 6) = i by omega]
      · simp [h1, h3, show ¬ i - 10 < 6 by omega, show ¬ i - 10 - 6 < 10 by omega]

theorem wordOfTxCmd_txCmdOfWord (w : Word) : wordOfTxCmd (txCmdOfWord w) = w &&& 0x00FFFFFF#32 := by
  have hmask : ∀ i : Fin 32, (0x00FFFFFF#32).getLsbD i.val = decide (i.val < 24) := by decide
  have hbytes : wordOfBytes (wordByte w 0) (wordByte w 1) (wordByte w 2) (wordByte w 3) = w := wordOfBytes_wordByte w
  apply BitVec.eq_of_getLsbD_eq
  intro i hi
  rw [BitVec.getLsbD_and, hmask ⟨i, hi⟩]
  conv => rhs; rw [← hbytes]
  show (0#8 ++ wordByte w 2 ++ wordByte w 1 ++ wordByte w 0).getLsbD i
    = ((wordByte w 3 ++ wordByte w 2 ++ wordByte w 1 ++ wordByte w 0).getLsbD i && decide (i < 24))
  simp only [BitVec.getLsbD_append, BitVec.getLsbD_zero]
  by_cases h1 : i < 8
  · simp [h1, show i < 24 by omega]
  · by_cases h2 : i - 8 < 8
    · simp [h1, h2, show i < 24 by omega]
    · by_cases h3 : i - 8 - 8 < 8
      · simp [h1, h2, h3, show i < 24 by omega]
      · simp [h1, h2, h3, show ¬ i < 24 by omega]

theorem and_allOnes_word (w : Word) : w &&& 0xFFFFFFFF#32 = w := BitVec.and_allOnes

/-! ### The plain registers -/

/-- The defined bits of the registers that store what is written to them (R108, R111, R115, R120 to R123, R125). -/
def Reg.plainMask : Reg → Option Word
  | .tunable _ | .tilt _ => some 0xFFFFFFFF#32
  | .irqEnable => some 0x0000007F#32
  | .staleTimeout | .refract => some 0x0000FFFF#32
  | .txCmd => some 0x00FFFFFF#32
  | .chFloor | .noteMinStr | .postWin => some 0x000000FF#32
  | .chRange | .vocRange | .pkRange => some 0x03FF03FF#32
  | .bassMask | .midMask | .trebMask => some 0x00000FFF#32
  | _ => none

theorem plainRegisters_mask :
    ∀ r ∈ plainRegisters, r.1 < 0x2000 ∧ r.1 % 4 = 0 ∧ (regAt r.1).plainMask = some r.2 := by decide +kernel

theorem tunableGet_tunableSet_same (t : Tunables) (v : F32) (i : TunableId) : tunableGet (tunableSet t v i) i = v := by
  cases i <;> rfl

theorem tunableGet_tunableSet_other (t : Tunables) (v : F32) {i j : TunableId} (h : j ≠ i) :
    tunableGet (tunableSet t v i) j = tunableGet t j := by
  cases i <;> cases j <;> first | rfl | exact absurd rfl h

/-- What a write to a plain register `r` does: `t` reads back the masked word in it, every other register as in `s`, and
no other part of the state has changed. -/
structure StoresPlain (s t : State) (r : Reg) (stored : Word) : Prop where
  readback : t.readReg r = stored
  others : ∀ r', r' ≠ r → t.readReg r' = s.readReg r'
  frame : t = { s with cfg := t.cfg, irqEnable := t.irqEnable, staleTimeout := t.staleTimeout, txCmd := t.txCmd }

/-- Every plain register stores (R202). -/
theorem storeReg_plain {r : Reg} {m : Word} (h : r.plainMask = some m) (s : State) (w : Word) :
    ∃ t, s.storeReg w r = .next t ∧ StoresPlain s t r (w &&& m) := by
  cases r
  case tunable i =>
    cases h
    refine ⟨_, rfl, (tunableGet_tunableSet_same s.cfg.tun w i).trans (and_allOnes_word w).symm, fun r' hne => ?_, rfl⟩
    cases r'
    case tunable j => exact tunableGet_tunableSet_other s.cfg.tun w (fun hij => hne (hij ▸ rfl))
    all_goals rfl
  case tilt i =>
    cases h
    refine ⟨_, rfl, (Vector.getElem_set_self i.isLt).trans (and_allOnes_word w).symm, fun r' hne => ?_, rfl⟩
    cases r'
    case tilt j => exact Vector.getElem_set_ne i.isLt j.isLt (fun hij => hne (Fin.ext hij ▸ rfl))
    all_goals rfl
  all_goals cases h <;>
    refine ⟨_, rfl, ?_, fun r' hne => by cases r' <;> first | rfl | exact absurd rfl hne, rfl⟩
  case irqEnable => exact zero_append_low (k := 25) (n := 7) rfl w
  case staleTimeout => exact zero_append_low (k := 16) (n := 16) rfl w
  case refract => exact zero_append_low (k := 16) (n := 16) rfl w
  case txCmd => exact wordOfTxCmd_txCmdOfWord w
  case chRange => exact wordOfRange_rangeOfWord w
  case vocRange => exact wordOfRange_rangeOfWord w
  case pkRange => exact wordOfRange_rangeOfWord w
  case chFloor => exact zero_append_low (k := 24) (n := 8) rfl w
  case noteMinStr => exact zero_append_low (k := 24) (n := 8) rfl w
  case postWin => exact zero_append_low (k := 24) (n := 8) rfl w
  case bassMask => exact zero_append_low (k := 20) (n := 12) rfl w
  case midMask => exact zero_append_low (k := 20) (n := 12) rfl w
  case trebMask => exact zero_append_low (k := 20) (n := 12) rfl w

/-- A register other than `reserved` stands at one offset (R100). -/
theorem Located.unique {a b : Nat} {r : Reg} (ha : Located a r) (hb : Located b r) : a = b := by
  cases ha
  case single ha =>
    cases hb
    case single hb => exact singleRegs_offset_unique ha hb
    all_goals simp [singleRegs, controlRegs, configRegs, debugRegs] at ha
  all_goals
    cases hb
    case single hb => simp [singleRegs, controlRegs, configRegs, debugRegs] at hb
    all_goals rfl

/-- No register reads the bus response. -/
@[simp] theorem readReg_answered (s : State) (d : Word) (e : Bool) (r : Reg) :
    (s.answered d e).readReg r = s.readReg r := by
  cases r <;> rfl

theorem regAt_ne_of_plain {a b : Nat} {m : Word} (ha : a % 4 = 0) (hb : b % 4 = 0) (hmask : (regAt b).plainMask = some m)
    (hne : a ≠ b) : regAt a ≠ regAt b := by
  intro heq
  have hres : regAt b ≠ .reserved := by intro h; rw [h] at hmask; cases hmask
  have hlocA := (regAt_located ha).resolve_left (heq ▸ hres)
  have hlocB := (regAt_located hb).resolve_left hres
  exact hne ((heq ▸ hlocA).unique hlocB)

/-- What SUS_N reads after a write (R121). -/
theorem legalSusN_readback (w : Word) :
    0#24 ++ legalSusN (wordByte w 0) = if w &&& 0xFF#32 = 0#32 then 1#32 else w &&& 0xFF#32 := by
  have hlow : w &&& 0xFF#32 = 0#24 ++ wordByte w 0 := (zero_append_low (k := 24) (n := 8) rfl w).symm
  have hzero : ∀ b : Byte, (0#24 ++ b : Word) = 0#32 ↔ b = 0#8 := by decide
  rw [hlow]
  unfold legalSusN
  by_cases hb : wordByte w 0 = 0#8
  · rw [if_pos hb, if_pos ((hzero _).mpr hb)]; rfl
  · rw [if_neg hb, if_neg (fun h => hb ((hzero _).mp h))]

/-- Settles O51: each plain register stores under its mask, and no other offset names it. -/
theorem registersStore : Obligations.RegistersStore := by
  unfold Obligations.RegistersStore
  intro s w hidle
  refine ⟨fun r hr => ?_, (s.answered 0#32 false).setCfg { s.cfg with susN := legalSusN (wordByte w 0) }, ?_, ?_, rfl⟩
  · obtain ⟨hlt, haligned, hmask⟩ := plainRegisters_mask r hr
    obtain ⟨t, hstore, hplain⟩ := storeReg_plain hmask (s.answered 0#32 false) w
    refine ⟨t, (hostAccess_write_idle hidle w hlt haligned).trans hstore, hplain.readback, fun a _ ha hne => ?_,
      hplain.frame⟩
    exact (hplain.others _ (regAt_ne_of_plain ha haligned hmask hne)).trans (readReg_answered ..)
  · exact (hostAccess_write_idle hidle w (a := 0x150) (by decide) rfl).trans (by rw [regAt_susN]; rfl)
  · unfold State.readAt
    rw [regAt_susN]
    exact legalSusN_readback w

/-! ### The data windows -/

/-- `t` is `s` with the word `w` at `a` of memory, and reads it back there (R202, R203). -/
theorem writeMem_word (s : State) (a : Nat) (w : Word) :
    memReadWord (s.writeMem a (bytesOfWord w)).mem a = w
    ∧ ∀ x, ¬ (a ≤ x ∧ x < a + 4) → memRead (s.writeMem a (bytesOfWord w)).mem x = memRead s.mem x := by
  refine ⟨memReadWord_writeBytes_word s.mem a w, fun x hx => memRead_writeBytes_outside _ _ ?_⟩
  have hlen : (bytesOfWord w).length = 4 := rfl
  omega

/-- A write to a window whose word at `a` is the register `r` (PCLASS_LUT, TX_RAW). -/
theorem windowStore {s : State} (hidle : s.pending = none) (w : Word) {a : Nat} {r : Reg} (ha : a < 0x2000)
    (haligned : a % 4 = 0) (hr : regAt a = r)
    (hstore : ∀ u : State, u.storeReg w r = .next (u.writeMem a (bytesOfWord w)))
    (hread : ∀ u : State, u.readReg r = memReadWord u.mem a) :
    ∃ t, hostAccess (.write (BitVec.ofNat 13 a) .word w) s = .next t
      ∧ t = { s.answered 0#32 false with mem := t.mem }
      ∧ t.readAt a = w ∧ ∀ x, ¬ (a ≤ x ∧ x < a + 4) → memRead t.mem x = memRead s.mem x := by
  obtain ⟨hword, hothers⟩ := writeMem_word (s.answered 0#32 false) a w
  refine ⟨(s.answered 0#32 false).writeMem a (bytesOfWord w), ?_, rfl, ?_, hothers⟩
  · rw [hostAccess_write_idle hidle w ha haligned, hr, hstore]
  · unfold State.readAt
    rw [hr, hread, hword]

/-- A write to BIN RAM below `N_BINS` (R133). -/
theorem binStore {s : State} (hidle : s.pending = none) (w : Word) (b : Fin 1024) :
    hostAccess (.write (BitVec.ofNat 13 (0x1000 + 4 * b.val)) .word w) s
      = .next ((s.answered 0#32 false).writeBin b w) := by
  have hb := b.isLt
  rw [hostAccess_write_idle hidle w (by omega) (by omega), regAt_bin]
  rfl

theorem readAt_bin (s : State) (b : Fin 1024) : s.readAt (0x1000 + 4 * b.val) = s.bin b.val := by
  unfold State.readAt
  rw [regAt_bin]
  rfl

/-- Settles O52: a word write to a window, and BIN RAM's limit at `N_BINS`. -/
theorem windowsStore : Obligations.WindowsStore := by
  unfold Obligations.WindowsStore
  intro s w base n k hidle hwin hk
  simp only [List.mem_cons, List.not_mem_nil, or_false, Prod.mk.injEq] at hwin
  rcases hwin with ⟨rfl, rfl⟩ | ⟨rfl, rfl⟩ | ⟨rfl, rfl⟩
  · obtain ⟨t, hstep, hframe, hread, hothers⟩ := windowStore hidle w (by omega) (by omega) (regAt_pclassLut ⟨k, hk⟩)
      (fun _ => rfl) (fun _ => rfl)
    exact ⟨t, hstep, hframe, fun h => absurd h.1 (by decide), fun _ => ⟨hread, hothers⟩⟩
  · obtain ⟨t, hstep, hframe, hread, hothers⟩ := windowStore hidle w (by omega) (by omega) (regAt_txRaw ⟨k, hk⟩)
      (fun _ => rfl) (fun _ => rfl)
    exact ⟨t, hstep, hframe, fun h => absurd h.1 (by decide), fun _ => ⟨hread, hothers⟩⟩
  · refine ⟨_, binStore hidle w ⟨k, hk⟩, ?_⟩
    by_cases hlim : k < s.param.nBins
    · have hbin : (s.answered 0#32 false).writeBin ⟨k, hk⟩ w
          = (s.answered 0#32 false).writeMem (0x1000 + 4 * k) (bytesOfWord w) := if_pos hlim
      obtain ⟨hword, hothers⟩ := writeMem_word (s.answered 0#32 false) (0x1000 + 4 * k) w
      rw [hbin]
      refine ⟨rfl, fun h => absurd h.2 (by omega), fun _ => ⟨?_, hothers⟩⟩
      rw [readAt_bin _ ⟨k, hk⟩]
      exact (if_pos hlim).trans hword
    · have hbin : (s.answered 0#32 false).writeBin ⟨k, hk⟩ w = s.answered 0#32 false := if_neg hlim
      rw [hbin]
      refine ⟨rfl, fun _ => ⟨rfl, ?_⟩, fun h => absurd ⟨rfl, by omega⟩ h⟩
      rw [readAt_bin _ ⟨k, hk⟩]
      exact if_neg hlim

end Sys2Proof.Machine
end

section
/-! # What the host reads (10_state.md R101 to R134), and what it reads after reset (R901) -/

namespace Sys2Proof.Machine

/-! ### Fields of appended words -/

theorem extractLsb'_append_above {v w : Nat} (x : BitVec v) (y : BitVec w) (start len : Nat) :
    (x ++ y).extractLsb' (start + w) len = x.extractLsb' start len := by
  rw [BitVec.extractLsb'_append_eq_of_le (Nat.le_add_left ..), Nat.add_sub_cancel]

/-- The field between `hi` and `lo`. -/
theorem extractLsb'_append_between {u v w : Nat} (hi : BitVec u) (x : BitVec v) (lo : BitVec w) :
    (hi ++ x ++ lo).extractLsb' w v = x := by
  rw [BitVec.extractLsb'_append_eq_of_le (Nat.le_refl w), Nat.sub_self, BitVec.extractLsb'_append_eq_right]

theorem boolBit_getLsbD_zero (b : Bool) : (boolBit b).getLsbD 0 = b := by cases b <;> rfl

theorem toNat_ofNat_of_lt {n v : Nat} (h : v < 2 ^ n) : (BitVec.ofNat n v).toNat = v := by
  rw [BitVec.toNat_ofNat, Nat.mod_eq_of_lt h]

/-- The four bytes of a word (R203). -/
theorem wordByte_wordOfBytes (b0 b1 b2 b3 : Byte) :
    wordByte (wordOfBytes b0 b1 b2 b3) 0 = b0 ∧ wordByte (wordOfBytes b0 b1 b2 b3) 1 = b1
    ∧ wordByte (wordOfBytes b0 b1 b2 b3) 2 = b2 ∧ wordByte (wordOfBytes b0 b1 b2 b3) 3 = b3 :=
  ⟨BitVec.extractLsb'_append_eq_right, extractLsb'_append_between (b3 ++ b2) b1 b0,
    (extractLsb'_append_above _ b0 8 8).trans (extractLsb'_append_between b3 b2 b1),
    (extractLsb'_append_above _ b0 16 8).trans ((extractLsb'_append_above _ b1 8 8).trans
      BitVec.extractLsb'_append_eq_left)⟩

/-- Byte `j` of a word put together from the bytes `f 0` to `f 3`. -/
theorem wordByte_of_bytes {w : Word} (f : Nat → Byte) (hw : w = wordOfBytes (f 0) (f 1) (f 2) (f 3)) {j : Nat}
    (hj : j < 4) : w.extractLsb' (8 * j) 8 = f j := by
  obtain ⟨h0, h1, h2, h3⟩ := wordByte_wordOfBytes (f 0) (f 1) (f 2) (f 3)
  subst hw
  have : j = 0 ∨ j = 1 ∨ j = 2 ∨ j = 3 := by omega
  rcases this with rfl | rfl | rfl | rfl
  · exact h0
  · exact h1
  · exact h2
  · exact h3

theorem wordByte_memReadWord (m : Memory) (a : Nat) {j : Nat} (hj : j < 4) :
    (memReadWord m a).extractLsb' (8 * j) 8 = memRead m (a + j) :=
  wordByte_of_bytes (fun j => memRead m (a + j)) rfl hj

/-! ### Registers put together from fields -/

/-- CTRL (R103). -/
theorem wordOfCtrl_fields (c : Ctrl) :
    (wordOfCtrl c).getLsbD 0 = c.rxEn ∧ (wordOfCtrl c).getLsbD 1 = c.autoFeat ∧ (wordOfCtrl c).getLsbD 2 = c.autoAux
    ∧ (wordOfCtrl c).getLsbD 3 = c.rxSrc ∧ (wordOfCtrl c).getLsbD 4 = c.txSink ∧ (wordOfCtrl c).extractLsb' 5 3 = 0#3
    ∧ (wordOfCtrl c).extractLsb' 8 4 = c.nbands ∧ (wordOfCtrl c).extractLsb' 12 20 = 0#20 := by
  obtain ⟨rxEn, autoFeat, autoAux, rxSrc, txSink, nbands⟩ := c
  revert rxEn autoFeat autoAux rxSrc txSink nbands
  decide +kernel

/-- STATUS but for BLEN (R105), whatever BLEN holds. -/
theorem statusWord_fields (s : State) :
    s.statusWord.getLsbD 0 = s.busy ∧ s.statusWord.getLsbD 1 = s.decAcc ∧ s.statusWord.getLsbD 2 = s.txEmpty
    ∧ s.statusWord.extractLsb' 3 5 = 0#5 ∧ s.statusWord.extractLsb' 15 17 = 0#17
    ∧ s.statusWord.extractLsb' 8 7 = BitVec.ofNat 7 s.dec.blen := by
  have key : ∀ (n : BitVec 7) (e a b : Bool) (w : Word),
      w = 0#17 ++ n ++ 0#5 ++ boolBit e ++ boolBit a ++ boolBit b →
      w.getLsbD 0 = b ∧ w.getLsbD 1 = a ∧ w.getLsbD 2 = e ∧ w.extractLsb' 3 5 = 0#5 ∧ w.extractLsb' 15 17 = 0#17
      ∧ w.extractLsb' 8 7 = n := by
    rintro n e a b w rfl
    revert n e a b
    decide +kernel
  exact key _ _ _ _ _ rfl

/-- DBG_SUSTAIN (R131). -/
theorem sustainWord_fields (h : DspHistory) :
    (sustainWord h).extractLsb' 0 24 = h.susPc ++ h.candCnt ++ h.candPc
    ∧ (sustainWord h).getLsbD 24 = h.susActive ∧ (sustainWord h).getLsbD 25 = h.floorSeeded
    ∧ (sustainWord h).extractLsb' 26 6 = 0#6 := by
  have hbit : ∀ i, (sustainWord h).getLsbD i
      = (0#6 ++ boolBit h.floorSeeded ++ boolBit h.susActive ++ h.susPc ++ h.candCnt ++ h.candPc).getLsbD i :=
    fun _ => rfl
  refine ⟨?_, ?_, ?_, ?_⟩
  · refine BitVec.eq_of_getLsbD_eq fun i hi => ?_
    rw [BitVec.getLsbD_extractLsb', hbit, Nat.zero_add]
    simp only [BitVec.getLsbD_append, hi, decide_true, Bool.true_and]
    by_cases h1 : i < 8
    · simp only [if_pos h1]
    · by_cases h2 : i - 8 < 8
      · simp only [if_neg h1, if_pos h2]
      · simp only [if_neg h1, if_neg h2, if_pos (show i - 8 - 8 < 8 by omega)]
  · rw [hbit]
    simp only [BitVec.getLsbD_append]
    exact boolBit_getLsbD_zero _
  · rw [hbit]
    simp only [BitVec.getLsbD_append]
    exact boolBit_getLsbD_zero _
  · exact (extractLsb'_append_above _ h.candPc 18 6).trans ((extractLsb'_append_above _ h.candCnt 10 6).trans
      ((extractLsb'_append_above _ h.susPc 2 6).trans ((extractLsb'_append_above _ (boolBit h.susActive) 1 6).trans
        BitVec.extractLsb'_append_eq_left)))

/-- DBG_DEC (R131). -/
theorem decWord_fields (s : State) :
    s.decWord.getLsbD 0 = s.decAcc ∧ s.decWord.extractLsb' 1 7 = 0#7
    ∧ s.decWord.extractLsb' 8 7 = BitVec.ofNat 7 s.dec.blen
    ∧ s.decWord.getLsbD 15 = false ∧ s.decWord.extractLsb' 16 16 = s.dec.staleCnt := by
  have hbit : ∀ i, s.decWord.getLsbD i
      = (s.dec.staleCnt ++ 0#1 ++ BitVec.ofNat 7 s.dec.blen ++ 0#7 ++ boolBit s.decAcc).getLsbD i := fun _ => rfl
  refine ⟨?_, extractLsb'_append_between _ 0#7 (boolBit s.decAcc),
    (extractLsb'_append_above _ (boolBit s.decAcc) 7 7).trans (extractLsb'_append_between _ (BitVec.ofNat 7 s.dec.blen) 0#7),
    ?_, ?_⟩
  · rw [hbit]
    simp only [BitVec.getLsbD_append]
    exact boolBit_getLsbD_zero _
  · rw [hbit]
    simp only [BitVec.getLsbD_append]
    rfl
  · exact (extractLsb'_append_above _ (boolBit s.decAcc) 15 16).trans ((extractLsb'_append_above _ 0#7 8 16).trans
      ((extractLsb'_append_above _ (BitVec.ofNat 7 s.dec.blen) 1 16).trans BitVec.extractLsb'_append_eq_left))

/-- A field of 7 bits holds BLEN, which is at most 75 (R151). -/
theorem toNat_blen {n : Nat} (h : n ≤ 75) : (BitVec.ofNat 7 n).toNat = n := toNat_ofNat_of_lt (by omega)

/-- Byte `k` of DBG_DEC_BUF (R132). -/
theorem decBufByte_eq (d : Decoder) (k : Nat) :
    decBufByte d k = if k < d.blen then d.dbuf.toList.getD k 0#8 else 0#8 := by
  unfold decBufByte Decoder.bytes
  rw [List.getD_eq_getElem?_getD, List.getElem?_take]
  split
  · rw [List.getD_eq_getElem?_getD]
  · rfl

/-! ### Words of the arrays and windows -/

theorem readAt_of_regAt {a : Nat} {r : Reg} (h : regAt a = r) (s : State) : s.readAt a = s.readReg r := by
  unfold State.readAt
  rw [h]

/-- Each word of a data window but BIN RAM is the word of memory at its address (R126 to R130). -/
theorem readAt_window (s : State) {win : Nat × Nat}
    (hwin : win ∈ [(0x400, 128), (0x600, 17), (0x680, 9), (0x700, 17), (0x780, 17), (0x800, 9), (0x880, 17)])
    {k : Nat} (hk : k < win.2) : s.readAt (win.1 + 4 * k) = memReadWord s.mem (win.1 + 4 * k) := by
  simp only [List.mem_cons, List.not_mem_nil, or_false] at hwin
  rcases hwin with rfl | rfl | rfl | rfl | rfl | rfl | rfl
  · exact readAt_of_regAt (regAt_pclassLut ⟨k, hk⟩) s
  · exact readAt_of_regAt (regAt_featImg ⟨k, hk⟩) s
  · exact readAt_of_regAt (regAt_auxImg ⟨k, hk⟩) s
  · exact readAt_of_regAt (regAt_rxFeat ⟨k, hk⟩) s
  · exact readAt_of_regAt (regAt_rxCmd ⟨k, hk⟩) s
  · exact readAt_of_regAt (regAt_rxAux ⟨k, hk⟩) s
  · exact readAt_of_regAt (regAt_txRaw ⟨k, hk⟩) s

theorem readAt_bin_byte (s : State) {k j : Nat} (hk : k < 1024) (hj : j < 4) :
    (s.readAt (0x1000 + 4 * k)).extractLsb' (8 * j) 8
      = if k < s.param.nBins then memRead s.mem (0x1000 + 4 * k + j) else 0x00#8 := by
  rw [readAt_bin s ⟨k, hk⟩]
  unfold State.bin
  split
  · exact wordByte_memReadWord _ _ hj
  · exact BitVec.extractLsb'_zero

/-- PARAM (R102). -/
theorem param_fields (s : State) :
    (s.readAt 0x004).extractLsb' 11 5 = 0#5 ∧ (s.readAt 0x004).extractLsb' 0 11 = BitVec.ofNat 11 s.param.nBins
    ∧ (s.readAt 0x004).extractLsb' 16 16 = BitVec.ofNat 16 s.param.txqDepth :=
  ⟨extractLsb'_append_between _ 0#5 (BitVec.ofNat 11 s.param.nBins), BitVec.extractLsb'_append_eq_right,
    (extractLsb'_append_above _ (BitVec.ofNat 11 s.param.nBins) 5 16).trans BitVec.extractLsb'_append_eq_left⟩

/-- Settles O56: the one-word registers by evaluation of the map, the composite words field by field, the arrays and
windows by the laws of the map. -/
theorem statusAndDebugRegisters : Obligations.StatusAndDebugRegisters := by
  unfold Obligations.StatusAndDebugRegisters
  intro s
  obtain ⟨hparam, hbins, hdepth⟩ := param_fields s
  obtain ⟨hbusy, hacc, hempty, hres1, hres2, hblen⟩ := statusWord_fields s
  obtain ⟨hsus, hactive, hseeded, hres3⟩ := sustainWord_fields s.dsp
  obtain ⟨hdacc, hres4, hdblen, hres5, hstale⟩ := decWord_fields s
  refine ⟨rfl, rfl, rfl, hparam, fun h => ?_, fun h => ?_, wordOfCtrl_fields s.ctrl, rfl, rfl, rfl, rfl, rfl, rfl, rfl,
    rfl, rfl, rfl, fun i => ⟨readAt_of_regAt (regAt_bandRange i) s, readAt_of_regAt (regAt_tilt i) s⟩,
    fun win hwin k j hk hj => ?_, fun k j hk hj => readAt_bin_byte s hk hj, hbusy, hacc, hempty, hres1, hres2,
    fun h => ?_, fun h => ?_, rfl, rfl, rfl, rfl,
    fun i => ⟨readAt_of_regAt (regAt_dbgChromaSm i) s, readAt_of_regAt (regAt_dbgVisLevel i) s⟩, rfl, rfl, rfl, hsus,
    hactive, hseeded, hres3, hdacc, hres4, fun h => ?_, hres5, hstale, fun h w j => ?_⟩
  · rw [hbins]; exact toNat_ofNat_of_lt h
  · rw [hdepth]; exact toNat_ofNat_of_lt h
  · rw [readAt_window s hwin hk]; exact wordByte_memReadWord _ _ hj
  · exact (congrArg BitVec.toNat hblen).trans (toNat_blen h)
  · show (0#16 ++ BitVec.ofNat 16 s.txFifo.length).toNat = _
    rw [BitVec.toNat_append, toNat_ofNat_of_lt (v := s.txFifo.length) h]
    simp
  · exact (congrArg BitVec.toNat hdblen).trans (toNat_blen h)
  · rw [readAt_of_regAt (regAt_dbgDecBuf w) s, ← decBufByte_eq]
    exact wordByte_of_bytes (fun j => decBufByte s.dec (4 * w.val + j)) rfl j.isLt

/-! ### The reset column -/

theorem readAt_bin_reset (p : Param) (b : Fin 1024) : (State.resetWith p).readAt (0x1000 + 4 * b.val) = 0x00000000#32 := by
  have hbyte : ∀ a, 0x1000 ≤ a → memRead [] a = 0#8 := by
    intro a ha
    unfold memRead memResetByte
    rw [if_neg (by omega), if_neg (by omega)]
  rw [readAt_bin]
  unfold State.bin
  split
  · show memReadWord [] (0x1000 + 4 * b.val) = _
    unfold memReadWord
    rw [hbyte _ (by omega), hbyte _ (by omega), hbyte _ (by omega), hbyte _ (by omega)]
    rfl
  · rfl

theorem readAt_param (s : State) (hdepth : s.param.txqDepth < 65536) (hbins : s.param.nBins < 2048) :
    (s.readAt 0x004).toNat = 65536 * s.param.txqDepth + s.param.nBins := by
  show (BitVec.ofNat 16 s.param.txqDepth ++ 0#5 ++ BitVec.ofNat 11 s.param.nBins).toNat = _
  rw [BitVec.toNat_append, BitVec.toNat_append, toNat_ofNat_of_lt (v := s.param.txqDepth) hdepth,
    toNat_ofNat_of_lt (v := s.param.nBins) hbins, BitVec.toNat_ofNat, Nat.zero_mod, Nat.or_zero,
    ← Nat.shiftLeft_add_eq_or_of_lt hbins, Nat.shiftLeft_eq, Nat.shiftLeft_eq]
  omega

/-- The registers that read the machine's parameters (R102, R133). -/
def Reg.readsParam : Reg → Bool
  | .param | .bin _ => true
  | _ => false

/-- Any other register reads after reset what it reads with the default parameters. -/
theorem readAt_reset_of {p : Param} {a : Nat} {w : Word}
    (h : (regAt a).readsParam = false ∧ State.reset.readAt a = w) : (State.resetWith p).readAt a = w := by
  obtain ⟨hreg, rfl⟩ := h
  unfold State.readAt
  revert hreg
  cases regAt a <;> intro hreg <;> first | rfl | cases hreg

/-- Settles O11: PARAM and BIN RAM for all legal parameters, every other register with the default ones. -/
theorem resetRegisterValues : Obligations.ResetRegisterValues := by
  unfold Obligations.ResetRegisterValues
  rintro p ⟨-, hbins, -, hdepth⟩
  have hzeros : ∀ a ∈ [0x010, 0x030, 0x014, 0x018, 0x01C, 0x020, 0x028, 0x02C, 0x034, 0x038, 0x03C, 0x040, 0x044, 0x048,
      0x04C, 0x050, 0x054, 0x058, 0x108, 0x13C, 0x140, 0x154, 0x158, 0x174, 0x17C, 0x180, 0x118, 0x144, 0x148, 0x14C,
      0x11C, 0x120, 0x124, 0x960, 0x964, 0x968, 0x978],
      (regAt a).readsParam = false ∧ State.reset.readAt a = 0x00000000#32 := by decide +kernel
  have hones : ∀ a ∈ [0x100, 0x128, 0x12C, 0x130, 0x134, 0x138, 0x15C, 0x160, 0x164, 0x168, 0x16C, 0x170, 0x178],
      (regAt a).readsParam = false ∧ State.reset.readAt a = 0x3F800000#32 := by decide +kernel
  have htilt : ∀ i : Fin 12, (regAt (0x200 + 4 * i.val)).readsParam = false
      ∧ State.reset.readAt (0x200 + 4 * i.val) = 0x3F800000#32 := by decide +kernel
  have hlut : ∀ w : Fin 128, (regAt (0x400 + 4 * w.val)).readsParam = false
      ∧ State.reset.readAt (0x400 + 4 * w.val) = 0xFFFFFFFF#32 := by decide +kernel
  have hfeat : ∀ w : Fin 17, (regAt (0x600 + 4 * w.val)).readsParam = false
      ∧ State.reset.readAt (0x600 + 4 * w.val)
        = if w.val = 12 then 0x00FF0000#32 else if w.val = 16 then 0x0000FF00#32 else 0x00000000#32 := by decide +kernel
  have hwindow : ∀ win ∈ [(0x1C0, 12), (0x900, 12), (0x930, 12), (0x680, 9), (0x700, 17), (0x780, 17), (0x800, 9),
      (0x880, 17), (0xA00, 19)],
      ∀ k < win.2, (regAt (win.1 + 4 * k)).readsParam = false
        ∧ State.reset.readAt (win.1 + 4 * k) = 0x00000000#32 := by decide +kernel
  refine ⟨rfl, readAt_param _ (Nat.lt_of_le_of_lt hdepth (by decide)) (Nat.lt_of_le_of_lt hbins (by decide)),
    readAt_reset_of (by decide), readAt_reset_of (by decide), fun a ha => readAt_reset_of (hzeros a ha),
    fun a ha => readAt_reset_of (hones a ha), readAt_reset_of (by decide), rfl, rfl, rfl, rfl,
    readAt_reset_of (by decide), readAt_reset_of (by decide), readAt_reset_of (by decide), readAt_reset_of (by decide),
    fun i => ⟨?_, ?_, ?_, ?_⟩, fun w => readAt_reset_of (hlut w),
    fun w => ⟨readAt_reset_of (hfeat w), ?_, ?_, ?_⟩, fun w => ⟨?_, ?_⟩, fun w => ?_, readAt_bin_reset p,
    readAt_reset_of (by decide), readAt_reset_of (by decide), readAt_reset_of (by decide), rfl, rfl, rfl, rfl⟩
  · exact readAt_reset_of (hwindow (0x1C0, 12) (by simp) i.val i.isLt)
  · exact readAt_reset_of (htilt i)
  · exact readAt_reset_of (hwindow (0x900, 12) (by simp) i.val i.isLt)
  · exact readAt_reset_of (hwindow (0x930, 12) (by simp) i.val i.isLt)
  · exact readAt_reset_of (hwindow (0x700, 17) (by simp) w.val w.isLt)
  · exact readAt_reset_of (hwindow (0x780, 17) (by simp) w.val w.isLt)
  · exact readAt_reset_of (hwindow (0x880, 17) (by simp) w.val w.isLt)
  · exact readAt_reset_of (hwindow (0x680, 9) (by simp) w.val w.isLt)
  · exact readAt_reset_of (hwindow (0x800, 9) (by simp) w.val w.isLt)
  · exact readAt_reset_of (hwindow (0xA00, 19) (by simp) w.val w.isLt)

end Sys2Proof.Machine
end

section
/-! # ANALYZE with a legal configuration (40_command_engine.md R402) -/

namespace Sys2Proof.Machine

/-- A frame that does not fit raises CMD_ERR, one that fits no event bit (R655). -/
theorem encodeFrame_irqStatus (s : State) (opcode : Byte) (t : FrameType) (payload : List Byte) :
    (s.encodeFrame opcode t payload).irqStatus = s.irqStatus
    ∨ (s.encodeFrame opcode t payload).irqStatus = s.irqStatus ||| irqCmdErr := by
  rcases encodeFrame_cases s opcode t payload with ⟨-, e⟩ | ⟨-, e⟩
  · exact .inl (by rw [e])
  · exact .inr (by rw [e]; rfl)

theorem autoFeature_irqStatus (s : State) :
    s.autoFeature.irqStatus = s.irqStatus ∨ s.autoFeature.irqStatus = s.irqStatus ||| irqCmdErr := by
  unfold State.autoFeature
  split
  · exact encodeFrame_irqStatus ..
  · exact .inl rfl

theorem autoAux_irqStatus (s : State) :
    s.autoAux.irqStatus = s.irqStatus ∨ s.autoAux.irqStatus = s.irqStatus ||| irqCmdErr := by
  unfold State.autoAux
  split
  · exact encodeFrame_irqStatus ..
  · exact .inl rfl

/-- The event bits of a completed tick: CMD_DONE and TICK_DONE, and CMD_ERR if a frame was dropped (R402, R655). -/
theorem tick_irqStatus (log1p : F32 → F32) (s : State) :
    (s.analyzeTick log1p).autoFeature.autoAux.finishCommand.irqStatus = s.irqStatus ||| 0x03#7
    ∨ (s.analyzeTick log1p).autoFeature.autoAux.finishCommand.irqStatus = s.irqStatus ||| 0x43#7 := by
  have hbits : ∀ x : BitVec 7, x ||| irqTickDone ||| irqCmdDone = x ||| 0x03#7
      ∧ x ||| irqTickDone ||| irqCmdErr ||| irqCmdDone = x ||| 0x43#7
      ∧ x ||| irqTickDone ||| irqCmdErr ||| irqCmdErr ||| irqCmdDone = x ||| 0x43#7 := by decide
  obtain ⟨hnone, hone, htwo⟩ := hbits s.irqStatus
  rw [finishCommand_irqStatus]
  rcases autoAux_irqStatus (s.analyzeTick log1p).autoFeature with haux | haux <;>
    rcases autoFeature_irqStatus (s.analyzeTick log1p) with hfeat | hfeat <;>
    rw [haux, hfeat, analyzeTick_irqStatus]
  · exact .inl hnone
  · exact .inr hone
  · exact .inr hone
  · exact .inr htwo

/-- The automatic frames and the end of the command change nothing but these fields. -/
theorem autoFrames_frame (s : State) : ∃ drops, s.autoFeature.autoAux.finishCommand = { s with
    pending := none, irqStatus := s.autoFeature.autoAux.finishCommand.irqStatus,
    now := s.autoFeature.autoAux.finishCommand.now, txFifo := s.autoFeature.autoAux.finishCommand.txFifo,
    seqTx := s.autoFeature.autoAux.finishCommand.seqTx, cnt := { s.cnt with txDrop := drops },
    cmdErr := s.autoFeature.autoAux.finishCommand.cmdErr } := by
  obtain ⟨_, _, _, _, _, _, hfeat⟩ := autoFeature_frame s
  obtain ⟨_, _, drops, _, _, _, haux⟩ := autoAux_frame s.autoFeature
  refine ⟨drops, ?_⟩
  rw [haux, hfeat]
  rfl

theorem autoFrames_none {s : State} (hfeat : s.ctrl.autoFeat = false) (haux : s.ctrl.autoAux = false) :
    s.autoFeature.autoAux = s := by
  have hf : s.autoFeature = s := by
    unfold State.autoFeature
    rw [hfeat, Bool.false_and, if_neg Bool.false_ne_true]
  rw [hf]
  unfold State.autoAux
  rw [haux, if_neg Bool.false_ne_true]

/-- Settles O20: the checks pass, and the tick, the automatic frames and the end of the command have their frames. -/
theorem analyzeCompletes : Obligations.AnalyzeCompletes := by
  unfold Obligations.AnalyzeCompletes
  intro s hlegal
  obtain ⟨t, hexec, ht, -, hmem, -⟩ := execAnalyze_legal s hlegal
  refine ⟨t, hexec, ?_, ?_, fun a hfeat haux => ?_, fun hfeat haux => ?_⟩
  · obtain ⟨drops, hframe⟩ := autoFrames_frame (s.analyzeTick Config.num.fn)
    rw [← ht] at hframe
    rw [hframe]
    rfl
  · rw [ht]
    exact tick_irqStatus _ s
  · rw [hmem]
    exact memRead_outside_images _ _ _ (tickFeat_length _ s) (tickAux_length _ s) a hfeat haux
  · rw [autoFrames_none (s := s.analyzeTick Config.num.fn) hfeat haux] at ht
    rw [ht]
    refine ⟨rfl, rfl, rfl, rfl, ?_⟩
    show s.irqStatus ||| irqTickDone ||| irqCmdDone = _
    rw [BitVec.or_assoc]
    rfl

end Sys2Proof.Machine
end

section
/-! # The byte step of the decoder (46_frame_decoder.md R700 to R704) -/

namespace Sys2Proof.Machine

/-- A buffer with less than a header, or with a header and less than its frame, ends Evaluate (R703). -/
theorem evaluate_incomplete (n : Nat) {s : State} (h : decodeCandidate s.dec.bytes = .error .headerIncomplete
    ∨ decodeCandidate s.dec.bytes = .error .frameIncomplete) : evaluate n s = .next s := by
  cases n with
  | zero => rfl
  | succ n => rcases h with h | h <;> simp only [evaluate, h]

theorem decodeCandidate_short {bs : List Byte} (h : bs.length < 4) : decodeCandidate bs = .error .headerIncomplete := by
  rcases decodeCandidate_cases bs with ⟨_, ft, _, p, _, _, _, rest, rfl, -, -⟩ | ⟨_, _, _, _, rfl, -, -⟩
      | ⟨_, _, _, _, _, rfl, -, -⟩ | ⟨-, hd⟩
  · simp only [List.length_cons] at h; omega
  · simp only [List.length_cons] at h; omega
  · simp only [List.length_cons] at h; omega
  · exact hd

/-- A known header with bytes of its frame missing (R703). -/
theorem decodeCandidate_partial {bs : List Byte} {ft : FrameType}
    (hknown : knownHeader (bs.getD 1 0#8) (bs.getD 3 0#8) = some ft) (h : bs.length < ft.len + 7) :
    decodeCandidate bs = .error .headerIncomplete ∨ decodeCandidate bs = .error .frameIncomplete := by
  rcases decodeCandidate_cases bs with ⟨_, ft', _, p, _, _, _, rest, rfl, hp, -⟩ | ⟨_, _, _, _, -, -, hd⟩
      | ⟨_, t, _, l, _, rfl, hnone, -⟩ | ⟨-, hd⟩
  · simp only [List.getD_cons_succ, List.getD_cons_zero, knownHeader_code, Option.some.injEq] at hknown
    subst hknown
    simp only [List.length_cons, List.length_append] at h
    omega
  · exact .inr hd
  · simp only [List.getD_cons_succ, List.getD_cons_zero, hnone] at hknown
    cases hknown
  · exact .inl hd

/-- Four bytes that are no known header (R704). -/
theorem decodeCandidate_unknown {bs : List Byte} (hunknown : knownHeader (bs.getD 1 0#8) (bs.getD 3 0#8) = none)
    (h : bs.length = 4) : ∃ t l, decodeCandidate bs = .error (.lengthMismatch t l) := by
  rcases decodeCandidate_cases bs with ⟨_, _, _, _, _, _, _, _, rfl, -, -⟩ | ⟨_, _, _, _, rfl, -, -⟩
      | ⟨_, t, _, l, _, -, -, hd⟩ | ⟨hlt, -⟩
  · simp only [List.getD_cons_succ, List.getD_cons_zero, knownHeader_code] at hunknown; cases hunknown
  · simp only [List.getD_cons_succ, List.getD_cons_zero, knownHeader_code] at hunknown; cases hunknown
  · exact ⟨t, l, hd⟩
  · omega

theorem vector_setIfInBounds_eq_set {n : Nat} (v : Vector Byte n) (i : Nat) (x : Byte) (h : i < n) :
    v.setIfInBounds i x = v.set i x := by
  ext j hj
  rw [Vector.getElem_setIfInBounds, Vector.getElem_set]

/-- The decoder with one more byte, as the byte step makes it (R701). -/
theorem append_eq_withNext {s : State} (x : Byte) (h : s.noteByte.dec.blen < 75) (hacc : s.dec.dstate = .accumulating) :
    s.noteByte.dec.append x h = s.dec.withNext x := by
  unfold Decoder.append Decoder.withNext
  rw [vector_setIfInBounds_eq_set s.dec.dbuf s.dec.blen x h, ← hacc]
  rfl

/-- The byte step while a frame is being gathered: the byte is appended and Evaluate runs (R701). -/
theorem byteStep_accumulating {s : State} (x : Byte) (hinv : s.dec.Inv) (hacc : s.dec.dstate = .accumulating) :
    byteStep x s = evaluate (s.dec.blen + 1) { s.noteByte with dec := s.dec.withNext x } := by
  have hlt : s.noteByte.dec.blen < 75 := by
    have := inv_blen _ hinv
    show s.dec.blen < 75
    omega
  unfold byteStep
  rw [hacc]
  simp only
  rw [dif_pos hlt, append_eq_withNext x hlt hacc]

/-- The decoder with one more byte holds its bytes and that byte, and nothing above them. -/
theorem withNext_eq_withBytes {d : Decoder} (x : Byte) (hinv : d.Inv) (hacc : d.dstate = .accumulating) :
    d.withNext x = ({ d with staleCnt := 0#16 } : Decoder).withBytes (d.bytes ++ [x]) := by
  have hlt : d.blen < 75 := by have := inv_blen d hinv; omega
  have happend := append_withBytes d x hlt (inv_settled d hinv).1 hacc
  have hnext : d.withNext x = ({ d.append x hlt with staleCnt := 0#16 } : Decoder) := by
    unfold Decoder.append Decoder.withNext
    rw [vector_setIfInBounds_eq_set _ _ _ hlt, ← hacc]
  rw [hnext, happend]
  cases d.bytes <;> rfl

section
variable {d : Decoder} (x : Byte) (hinv : d.Inv) (hacc : d.dstate = .accumulating)
include hinv hacc

theorem withNext_bytes : (d.withNext x).bytes = d.bytes ++ [x] ∧ (d.bytes ++ [x]).length = d.blen + 1 := by
  have hle := inv_blen d hinv
  have hlen : (d.bytes ++ [x]).length = d.blen + 1 := by
    rw [List.length_append, bytes_length d (by omega), List.length_singleton]
  refine ⟨?_, hlen⟩
  rw [withNext_eq_withBytes x hinv hacc, withBytes_bytes _ _ (by omega)]

theorem withNext_dbuf (k : Nat) (hk : k < 75) : (d.withNext x).dbuf[k] = (d.bytes ++ [x]).getD k 0#8 := by
  have h := bufOfBytes_getElem (d.bytes ++ [x]) k hk
  rw [← h]
  congr 1
  rw [withNext_eq_withBytes x hinv hacc, withBytes_dbuf]

end

/-- A byte that leaves the header or the frame incomplete is appended, and that is all (R701, R703). -/
theorem byteStep_appends {s : State} (x : Byte) (hinv : s.dec.Inv) (hacc : s.dec.dstate = .accumulating)
    (h : s.dec.blen + 1 < 4 ∨ ∃ ft, knownHeader (s.dec.withNext x).dbuf[1] (s.dec.withNext x).dbuf[3] = some ft
      ∧ s.dec.blen + 1 < ft.len + 7) :
    byteStep x s = .next { s.noteByte with dec := s.dec.withNext x } := by
  obtain ⟨hbytes, hlen⟩ := withNext_bytes x hinv hacc
  rw [byteStep_accumulating x hinv hacc]
  refine evaluate_incomplete _ ?_
  show decodeCandidate (s.dec.withNext x).bytes = _ ∨ decodeCandidate (s.dec.withNext x).bytes = _
  rw [hbytes]
  rcases h with h | ⟨ft, hknown, h⟩
  · exact .inl (decodeCandidate_short (by omega))
  · rw [withNext_dbuf x hinv hacc 1 (by omega), withNext_dbuf x hinv hacc 3 (by omega)] at hknown
    exact decodeCandidate_partial hknown (by omega)

/-- An unknown header at the fourth byte: LengthMismatch, Resync, and a buffer too short for a further pass (R704, R708). -/
theorem byteStep_unknown_header {s : State} (x : Byte) (hinv : s.dec.Inv) (hblen : s.dec.blen = 3)
    (h : knownHeader (s.dec.withNext x).dbuf[1] (s.dec.withNext x).dbuf[3] = none) :
    byteStep x s
      = .next (({ s.noteByte with dec := s.dec.withNext x } : State).raiseDecError .lengthMismatch).resync := by
  have hacc : s.dec.dstate = .accumulating := by
    cases hd : s.dec.dstate with
    | seekingSof => have := hinv.1.mp hd; omega
    | accumulating => rfl
  obtain ⟨hbytes, hlen⟩ := withNext_bytes x hinv hacc
  rw [withNext_dbuf x hinv hacc 1 (by omega), withNext_dbuf x hinv hacc 3 (by omega)] at h
  obtain ⟨t, l, hd⟩ := decodeCandidate_unknown h (by omega)
  rw [← hbytes] at hd
  rw [byteStep_accumulating x hinv hacc]
  have hkeep : (resyncKeep (s.dec.withNext x).bytes).length < 4 := by
    have := resyncKeep_length (s.dec.withNext x).bytes
    rw [hbytes] at this ⊢
    omega
  have hrest : decodeCandidate
      (({ s.noteByte with dec := s.dec.withNext x } : State).raiseDecError .lengthMismatch).resync.dec.bytes
      = .error .headerIncomplete := by
    show decodeCandidate ((s.dec.withNext x).withBytes (resyncKeep (s.dec.withNext x).bytes)).bytes = _
    rw [withBytes_bytes _ _ (by omega)]
    exact decodeCandidate_short hkeep
  simp only [evaluate, hd]
  exact evaluate_incomplete _ (.inl hrest)

/-- SEEKING_SOF takes SOF (R701). -/
theorem byteStep_sof {s : State} (hseek : s.dec.dstate = .seekingSof) :
    byteStep 0xAA#8 s = .next { s.noteByte with dec := s.noteByte.dec.begin 0xAA#8 } := by
  unfold byteStep
  rw [hseek]
  rfl

/-- SEEKING_SOF drops any other byte (R701). -/
theorem byteStep_dropped {s : State} {x : Byte} (hseek : s.dec.dstate = .seekingSof) (hother : x ≠ 0xAA#8) :
    byteStep x s = .next s.noteByte := by
  unfold byteStep
  rw [hseek]
  exact if_neg hother

theorem hostAccess_write_rxPush (s : State) (w : Word) :
    hostAccess (.write 0x030#13 .word w) s = rxPushStep (w.extractLsb' 0 8) (s.answered 0#32 false) := by
  rw [hostAccess_write 0x030#13 w s rfl, show regAt (0x030#13).toNat = .rxPush from regAt_rxPush, writeReg_free _ _ _ rfl]
  rfl

/-- Settles O37: the two states of the byte step, and the two sources of bytes. -/
theorem decoderByteStep : Obligations.DecoderByteStep := by
  unfold Obligations.DecoderByteStep
  intro s x
  refine ⟨fun hseek hempty hsof => ?_, fun hseek hother => ?_, fun hinv hacc h => ?_, fun hinv hblen h => ?_,
    fun hen hsrc => ?_, fun hoff => ?_, fun w hen hsrc => ?_, fun w hoff => ?_⟩
  · subst hsof
    refine ⟨_, byteStep_sof hseek, ?_⟩
    have hnext : s.dec.withNext 0xAA#8 = s.noteByte.dec.begin 0xAA#8 := by
      unfold Decoder.withNext Decoder.begin
      rw [hempty, vector_setIfInBounds_eq_set _ _ _ (by decide)]
      rfl
    rw [hnext]
    rfl
  · exact ⟨_, byteStep_dropped hseek hother, rfl⟩
  · exact ⟨_, byteStep_appends x hinv hacc h, rfl⟩
  · exact ⟨_, byteStep_unknown_header x hinv hblen h, rfl⟩
  · simp only [rxPortStep, hen, hsrc, Bool.not_false, Bool.and_self, if_true]
  · refine if_neg fun hon => ?_
    obtain ⟨hen, hsrc⟩ := Bool.and_eq_true_iff.mp hon
    rcases hoff with hoff | hoff
    · rw [hoff] at hen; cases hen
    · rw [hoff] at hsrc; cases hsrc
  · rw [hostAccess_write_rxPush]
    exact if_pos (Bool.and_eq_true_iff.mpr ⟨hen, hsrc⟩)
  · rw [hostAccess_write_rxPush]
    refine if_neg fun hon => ?_
    obtain ⟨hen, hsrc⟩ := Bool.and_eq_true_iff.mp hon
    rcases hoff with hoff | hoff
    · rw [show s.ctrl.rxEn = true from hen] at hoff; cases hoff
    · rw [show s.ctrl.rxSrc = true from hsrc] at hoff; cases hoff

end Sys2Proof.Machine
end

section
/-! # The order of the steps of a cycle (20_memory.md R220) -/

namespace Sys2Proof.Machine

/-! ### After the host access -/

theorem RxEffect.pending_irq {s t : State} (h : RxEffect s t) :
    t.pending = s.pending ∧ ∃ bits, t.irqStatus = s.irqStatus ||| bits := by
  cases h with
  | decoder _ h _ hirq => exact ⟨by rw [h], hirq⟩
  | snapshot ft payload _ => exact ⟨rfl, 0#7, BitVec.or_zero.symm⟩

/-- The decoder issues no command and clears no event bit. -/
theorem RxEffects.pending_irq {s t : State} (h : RxEffects s t) :
    t.pending = s.pending ∧ ∃ bits, t.irqStatus = s.irqStatus ||| bits := by
  induction h with
  | refl => exact ⟨rfl, 0#7, BitVec.or_zero.symm⟩
  | tail _ hlast ih =>
    obtain ⟨hp, bits, hirq⟩ := ih
    obtain ⟨hp', bits', hirq'⟩ := hlast.pending_irq
    exact ⟨hp'.trans hp, bits ||| bits', by rw [hirq', hirq, BitVec.or_assoc]⟩

theorem txStep_frame (ready : Bool) (s : State) :
    txStep ready s = { s with txFifo := (txStep ready s).txFifo, port := (txStep ready s).port } := by
  unfold txStep
  split <;> rfl

/-- With TX_SINK = 0 the oldest byte leaves on `tx` (R656). -/
theorem txStep_pops {s : State} {b : Byte} {rest : List Byte} (hsink : s.ctrl.txSink = false) (hfifo : s.txFifo = b :: rest) :
    (txStep true s).port.tx = some b ∧ (txStep true s).txFifo = rest := by
  have hvalid : s.txValid = true := by unfold State.txValid; rw [hsink, hfifo]; rfl
  unfold txStep
  rw [hvalid]
  exact ⟨congrArg List.head? hfifo, congrArg List.tail hfifo⟩

/-- With TX_SINK = 1 nothing leaves on `tx` (R656). -/
theorem txStep_sink (ready : Bool) {s : State} (hsink : s.ctrl.txSink = true) : txStep ready s = s := by
  unfold txStep State.txValid
  rw [hsink]
  simp

theorem andThen_pure (o : Host.Outcome State Fault Refusal) : andThen o .next = o := by
  cases o <;> rfl

/-- A cycle in which no command completes, from its inputs (R220). -/
theorem step_of_host {s : State} {a : HostAccess} {x : Option Byte} {ready tick : Bool}
    (h : s.cycleNow = { Cycle.quiet with host := some a, rx := x, txReady := ready, tbTick := tick }) :
    step s = andThen (hostAccess a s.startCycle)
      (fun u => andThen (rxStep x u) (fun v => .next (tickStep tick (txStep ready v)))) := by
  rw [step_eq, h]
  rfl

/-- A cycle without a host access in which the pending command completes (R220). -/
theorem step_of_completion {s u : State} {x : Option Byte} {ready : Bool}
    (h : s.cycleNow = { Cycle.quiet with complete := true, rx := x, txReady := ready })
    (hengine : engineStep true s.startCycle = .next u) :
    step s = andThen (rxStep x u) (fun v => .next (txStep ready v)) := by
  rw [step_eq, h]
  show andThen (engineStep true s.startCycle) _ = _
  rw [hengine]
  rfl

/-! ### Completion first -/

/-- A command that completes in the cycle of a host access completes before it, and what follows the access issues no
command and clears no event bit (R107, R220, R809). -/
theorem step_completes_then_host {s : State} {p : CmdWord} {a : HostAccess} (hinv : s.DecoderInv)
    (hrst : s.cycleNow.rst = false) (hcomplete : s.cycleNow.complete = true) (hp : s.pending = some p)
    (hhost : s.cycleNow.host = some a) :
    ∃ (u v t : State), hostAccess a u.finishCommand = .next v ∧ step s = .next t ∧ t.pending = v.pending
      ∧ ∃ bits, t.irqStatus = v.irqStatus ||| bits := by
  obtain ⟨t, hstep, -, -⟩ := step_goesOn hinv
  obtain ⟨u, hengine, -⟩ := engineStep_completes (s := s.startCycle) hp
  have hrun := hstep
  rw [step_eq, runCycle, hrst, hcomplete, hengine] at hrun
  obtain ⟨v, hv, hrun⟩ := andThen_eq_next.mp hrun
  rw [hhost] at hv
  obtain ⟨w, hw, hrun⟩ := andThen_eq_next.mp hrun
  cases hrun
  obtain ⟨hp1, bits1, hirq1⟩ := (rxStep_effects hw).pending_irq
  obtain ⟨hp2, bits2, hirq2⟩ := (tickStep_effects s.cycleNow.tbTick (txStep s.cycleNow.txReady w)).pending_irq
  rw [txStep_frame] at hp2 hirq2
  refine ⟨u, v, _, hv, hstep, ?_, bits1 ||| bits2, ?_⟩
  · rw [txStep_frame]; exact hp2.trans hp1
  · rw [txStep_frame]
    refine hirq2.trans ?_
    show w.irqStatus ||| bits2 = _
    rw [hirq1, BitVec.or_assoc]

/-- CMD_DONE stays set through a clear of its own cycle (R107, R809). -/
theorem clearIrq_keeps_cmdDone (u : State) (bits : BitVec 7) :
    (u.finishCommand.clearIrq bits).irqStatus.getLsbD 0 = true := by
  have hraised : u.finishCommand.now.irqRaised.getLsbD 0 = true := by
    rw [finishCommand_now, BitVec.getLsbD_or]
    exact Bool.or_eq_true_iff.mpr (.inr rfl)
  rw [clearIrq_irqStatus, BitVec.getLsbD_or, BitVec.getLsbD_and, BitVec.getLsbD_and, finishCommand_cmdDone, hraised]
  exact Bool.or_eq_true_iff.mpr (.inr rfl)

theorem getLsbD_or_of_left {n : Nat} {x y : BitVec n} {i : Nat} (h : x.getLsbD i = true) : (x ||| y).getLsbD i = true := by
  rw [BitVec.getLsbD_or, h, Bool.true_or]

/-- A byte of the cycle in which RESET_DECODER completes survives it (R408, R220). -/
theorem resetDecoder_then_byte {s : State} {typ : BitVec 2}
    (hcycle : s.cycleNow = { Cycle.quiet with complete := true, rx := some 0xAA#8 })
    (hp : s.pending = some { op := 0x07#8, typ := typ }) (hen : s.ctrl.rxEn = true) (hsrc : s.ctrl.rxSrc = false) :
    ∃ t, step s = .next t ∧ t.dec.dstate = .accumulating ∧ t.dec.blen = 1 := by
  have hengine : engineStep true s.startCycle = .next s.startCycle.resetDecoder.finishCommand := by
    unfold engineStep
    rw [startCycle_pending, hp]
    rfl
  have hrx : rxStep (some 0xAA#8) s.startCycle.resetDecoder.finishCommand
      = byteStep 0xAA#8 s.startCycle.resetDecoder.finishCommand :=
    if_pos (Bool.and_eq_true_iff.mpr
      ⟨hen, by rw [show s.startCycle.resetDecoder.finishCommand.ctrl = s.ctrl from rfl, hsrc]; rfl⟩)
  rw [step_of_completion (ready := false) hcycle hengine, hrx, byteStep_sof rfl]
  exact ⟨_, rfl, rfl, rfl⟩

/-- A frame on the wire begins with SOF, and its other bytes are its payload and six more (R310). -/
theorem wireFrame_sof (code seq len : Byte) (payload : List Byte) :
    ∃ frame, wireFrame code seq len payload = 0xAA#8 :: frame ∧ frame.length = payload.length + 6 := by
  refine ⟨(wireFrame code seq len payload).tail, rfl, ?_⟩
  rw [List.length_tail, wireFrame_length]
  rfl

/-- The first byte of a frame enqueued in a cycle may leave in it (R656, R220). -/
theorem sendAux_then_pop {s : State} {typ : BitVec 2}
    (hcycle : s.cycleNow = { Cycle.quiet with complete := true, txReady := true })
    (hp : s.pending = some { op := 0x03#8, typ := typ }) (hsink : s.ctrl.txSink = false) (hempty : s.txFifo = [])
    (hroom : 43 ≤ s.param.txqDepth) :
    ∃ t, step s = .next t ∧ t.port.tx = some 0xAA#8 ∧ t.txFifo.length = 42 := by
  have hengine : engineStep true s.startCycle
      = .next (s.startCycle.encodeFrame 0x03#8 .aux s.startCycle.auxImage).finishCommand := by
    unfold engineStep
    rw [startCycle_pending, hp]
    rfl
  have hfits : FrameType.aux.len + 7 ≤ s.startCycle.param.txqDepth - s.startCycle.txFifo.length := by
    rw [startCycle_param, startCycle_txFifo, hempty]
    exact hroom
  rcases encodeFrame_cases s.startCycle 0x03#8 .aux s.startCycle.auxImage with ⟨-, hsent⟩ | ⟨hfull, -⟩
  · obtain ⟨frame, hframe, hlen⟩ := wireFrame_sof (frameCode .aux) (s.startCycle.seqTx.get .aux) (frameLenByte .aux)
      s.startCycle.auxImage
    rw [auxImage_length] at hlen
    rw [hframe, startCycle_txFifo, hempty, List.nil_append] at hsent
    rw [hsent] at hengine
    obtain ⟨hout, hleft⟩ := txStep_pops (b := 0xAA#8) (rest := frame)
      (s := ({ s.startCycle with txFifo := 0xAA#8 :: frame, seqTx := _ } : State).finishCommand) hsink rfl
    exact ⟨_, step_of_completion (x := none) hcycle hengine, hout, (congrArg List.length hleft).trans hlen⟩
  · omega

/-! ### The host access before the byte, the pop and the strobe -/

theorem rxPortStep_ctrl (x : Byte) (u : State) :
    rxPortStep x u = if u.ctrl.rxEn = true ∧ u.ctrl.rxSrc = false then byteStep x u else .next u := by
  unfold rxPortStep
  simp only [Bool.and_eq_true, Bool.not_eq_true']

/-- A write to CTRL decides about the `rx` byte of its own cycle (R103, R220, R700). -/
theorem ctrlWrite_then_byte {s : State} {w : Word} {x : Byte} (hidle : s.pending = none)
    (hcycle : s.cycleNow = { Cycle.quiet with host := some (.write 0x008#13 .word w), rx := some x }) :
    ∃ u, hostAccess (.write 0x008#13 .word w) s.startCycle = .next u
      ∧ (w.getLsbD 0 = true ∧ w.getLsbD 3 = false → step s = byteStep x u)
      ∧ (¬ (w.getLsbD 0 = true ∧ w.getLsbD 3 = false) → step s = .next u) := by
  have hhost := regroupingWrite_ctrl s.startCycle w hidle
  refine ⟨_, hhost, ?_⟩
  have hstep : step s = rxPortStep x ((s.startCycle.answered 0#32 false).writeCtrl w) := by
    rw [step_of_host (ready := false) (tick := false) hcycle, hhost]
    exact andThen_pure _
  rw [hstep, rxPortStep_ctrl]
  exact ⟨fun h => if_pos h, fun h => if_neg h⟩

/-- A write to CTRL decides about the `tx` pop of its own cycle (R103, R220, R656). -/
theorem ctrlWrite_then_pop {s : State} {w : Word} {b : Byte} {rest : List Byte} (hidle : s.pending = none)
    (hfifo : s.txFifo = b :: rest)
    (hcycle : s.cycleNow = { Cycle.quiet with host := some (.write 0x008#13 .word w), txReady := true }) :
    ∃ t, step s = .next t
      ∧ (w.getLsbD 4 = false → t.port.tx = some b ∧ t.txFifo = rest)
      ∧ (w.getLsbD 4 = true → t.port.tx = none ∧ t.txFifo = s.txFifo) := by
  have hkept := writeCtrl_frame (s.startCycle.answered 0#32 false) w
  refine ⟨txStep true ((s.startCycle.answered 0#32 false).writeCtrl w), ?_, fun hport => ?_, fun hsink => ?_⟩
  · rw [step_of_host (x := none) (tick := false) hcycle, regroupingWrite_ctrl s.startCycle w hidle]
    rfl
  · exact txStep_pops hport (by rw [hkept]; exact hfifo)
  · rw [txStep_sink true hsink, hkept]
    exact ⟨rfl, rfl⟩

theorem toNat_nextStale (c : BitVec 16) : (nextStale c).toNat = min (c.toNat + 1) 65535 := by
  unfold nextStale
  have hlt := c.isLt
  split
  · next h => subst h; rfl
  · next h =>
    have hne : c.toNat ≠ 65535 := fun heq => h (BitVec.eq_of_toNat_eq heq)
    rw [BitVec.toNat_add, show (1#16).toNat = 1 from rfl, Nat.mod_eq_of_lt (by omega)]
    omega

/-- The stale timeout clears the buffer and counts (R720). -/
theorem staleClear_eq (s : State) :
    s.staleClear.dec = emptyDecoder 0#16 ∧ s.staleClear.cnt.stale = s.cnt.stale + 1#32 := by
  have hbuf : bufOfBytes [] = Vector.replicate 75 0x00#8 := by decide
  refine ⟨?_, rfl⟩
  unfold emptyDecoder
  rw [← hbuf]
  rfl

/-- A strobe on a frame that is being gathered (R720). -/
theorem timebaseStep_accumulating {s : State} (hbyte : s.now.byteTaken = false) (hacc : s.dec.dstate = .accumulating) :
    (s.staleTimeout ≠ 0#16 ∧ s.staleTimeout.toNat ≤ min (s.dec.staleCnt.toNat + 1) 65535 →
      (timebaseStep s).dec = emptyDecoder 0#16 ∧ (timebaseStep s).cnt.stale = s.cnt.stale + 1#32)
    ∧ (¬ (s.staleTimeout ≠ 0#16 ∧ s.staleTimeout.toNat ≤ min (s.dec.staleCnt.toNat + 1) 65535) →
      (timebaseStep s).dec.dstate = .accumulating ∧ (timebaseStep s).cnt = s.cnt) := by
  have hle : s.staleTimeout ≤ s.countStale.dec.staleCnt ↔ s.staleTimeout.toNat ≤ min (s.dec.staleCnt.toNat + 1) 65535 := by
    rw [← toNat_nextStale]; rfl
  unfold timebaseStep
  rw [hbyte, if_neg Bool.false_ne_true]
  refine ⟨fun ⟨hon, hreached⟩ => ?_, fun hnot => ?_⟩
  · rw [if_pos ⟨hacc, hon⟩, if_pos (hle.mpr hreached)]
    exact staleClear_eq s.countStale
  · split
    · next h =>
      rw [if_neg fun hreached => hnot ⟨h.2, hle.mp hreached⟩]
      exact ⟨hacc, rfl⟩
    · exact ⟨hacc, rfl⟩

theorem hostAccess_write_staleTimeout (s : State) (w : Word) :
    hostAccess (.write 0x024#13 .word w) s
      = .next { s.answered 0#32 false with staleTimeout := w.extractLsb' 0 16 } := by
  rw [hostAccess_write 0x024#13 w s rfl, show regAt (0x024#13).toNat = .staleTimeout from regAt_staleTimeout,
    writeReg_free _ _ _ rfl]
  rfl

/-- Settles O9: one lemma for each pair of steps whose order can be observed. -/
theorem completionComesFirst : Obligations.CompletionComesFirst := by
  unfold Obligations.CompletionComesFirst
  refine ⟨fun s p w hinv hrst hcomplete hp => ⟨fun hhost => ?_, fun hhost => ?_⟩,
    fun s typ hcycle hp hen hsrc => resetDecoder_then_byte hcycle hp hen hsrc,
    fun s typ hcycle hp hsink hempty hroom => sendAux_then_pop hcycle hp hsink hempty hroom,
    fun s w x hidle hcycle => ctrlWrite_then_byte hidle hcycle,
    fun s w b rest hidle hfifo hcycle => ctrlWrite_then_pop hidle hfifo hcycle,
    fun s w hacc hcycle => ?_⟩
  · obtain ⟨u, v, t, hv, hstep, hpending, -⟩ := step_completes_then_host hinv hrst hcomplete hp hhost
    rw [hostAccess_write_cmd, issueCommand_idle (s := u.finishCommand.answered 0#32 false) rfl] at hv
    cases hv
    exact ⟨t, hstep, hpending⟩
  · obtain ⟨u, v, t, hv, hstep, hpending, bits, hirq⟩ := step_completes_then_host hinv hrst hcomplete hp hhost
    rw [hostAccess_write_irqStatus] at hv
    cases hv
    refine ⟨t, hstep, hpending, ?_⟩
    rw [hirq]
    exact getLsbD_or_of_left (clearIrq_keeps_cmdDone u _)
  · refine ⟨_, ?_, timebaseStep_accumulating (s := { s.startCycle.answered 0#32 false with
      staleTimeout := w.extractLsb' 0 16 }) rfl hacc⟩
    rw [step_of_host (x := none) (ready := false) hcycle, hostAccess_write_staleTimeout]
    rfl

end Sys2Proof.Machine
end

section
/-! # The step runs instructions, and the tx port drains (20_memory.md R220, R221) -/

namespace Sys2Proof.Machine

/-! ### The pending command -/

/-- Bytes that are read as a frame spell a frame instruction (R310, R703). -/
theorem decodeCandidate_ok {bs rest : List Byte} {i : Instr} (h : decodeCandidate bs = .ok (i, rest)) :
    ∃ ft seq payload crc eof, i = mkFrame ft seq payload crc eof ∧ bs.length = ft.len + 7 + rest.length := by
  rcases decodeCandidate_cases bs with ⟨b0, ft, seq, p, lo, hi, e, rest', hbs, hlen, hd⟩ | ⟨_, _, _, _, -, -, hd⟩
      | ⟨_, _, _, _, _, -, -, hd⟩ | ⟨-, hd⟩ <;> rw [hd] at h <;> cases h
  refine ⟨ft, seq, p, _, e, rfl, ?_⟩
  rw [hbs]
  simp only [List.length_cons, List.length_append, hlen]
  omega

/-- Bytes that begin with SOF are read as a candidate frame (R310). -/
theorem decode_of_sof {bs : List Byte} (h : bs.head? = some sofByte) : decode bs = decodeCandidate bs := by
  cases bs with
  | nil => cases h
  | cons b rest =>
    obtain rfl : b = sofByte := Option.some.inj h
    rfl

/-- An instruction in the four bytes of a word is the command of that word: they are too few for a frame (R300, R310). -/
theorem decodeCommandWord_of_decode {w : Word} {i : Instr} {rest : List Byte}
    (h : decode (bytesOfWord w) = .ok (i, rest)) : decodeCommandWord w = .ok i := by
  by_cases hsof : wordByte w 0 = sofByte
  · rw [decode_of_sof (bs := bytesOfWord w) (congrArg some hsof)] at h
    obtain ⟨ft, _, _, _, _, -, hlen⟩ := decodeCandidate_ok h
    have hfour : (bytesOfWord w).length = 4 := rfl
    omega
  · have hword : decode (bytesOfWord w) = decodeCommandBytes (bytesOfWord w) := if_neg hsof
    have hjoin : wordByte w 3 ++ wordByte w 2 ++ wordByte w 1 ++ wordByte w 0 = w := wordOfBytes_wordByte w
    rw [hword] at h
    simp only [bytesOfWord, decodeCommandBytes, hjoin] at h
    cases hd : decodeCommandWord w with
    | ok j => rw [hd] at h; cases h; rfl
    | error e => rw [hd] at h; cases h

/-- The completion step runs the instruction the pending word spells (R401). -/
theorem engineStep_runs {s : State} {p : CmdWord} {i : Instr} (hp : s.pending = some p)
    (hi : decodeCommand p.op p.typ = .ok i) : engineStep true s = exec i s := by
  simp only [engineStep, hp, hi]

/-- A cycle without reset is the engine's step and then the rest of the cycle (R220). -/
theorem step_of_no_reset {s : State} (h : s.cycleNow.rst = false) :
    step s = andThen (engineStep s.cycleNow.complete s.startCycle) (restOfCycle s.cycleNow) := by
  rw [step_eq, runCycle, h]
  rfl

/-- Settles O6: the engine's step is the decoded instruction, and `restOfCycle` is the other steps in R220's order. -/
theorem stepRunsPendingCommand : Obligations.StepRunsPendingCommand := by
  unfold Obligations.StepRunsPendingCommand
  intro s w i hrst hcomplete hpending hdecode
  have hengine : engineStep true s.startCycle = exec i s.startCycle :=
    engineStep_runs hpending (decodeCommandWord_of_decode hdecode)
  rw [step_of_no_reset hrst, hcomplete, hengine]
  rfl

/-! ### A received frame -/

theorem andThen_assoc (o : Host.Outcome State Fault Refusal) (f g : State → Host.Outcome State Fault Refusal) :
    andThen (andThen o f) g = andThen o (fun s => andThen (f s) g) := by
  cases o <;> rfl

/-- While a frame is being gathered the buffer begins with SOF (R155, R701). -/
theorem bytes_head_sof {d : Decoder} (hinv : d.Inv) (hacc : d.dstate = .accumulating) :
    d.bytes.head? = some sofByte := by
  obtain ⟨hwith, hempty | ⟨hhead, -⟩⟩ := inv_settled d hinv
  · rw [hwith, hempty] at hacc
    cases hacc
  · exact hhead

/-- A byte that completes a candidate frame: the frame runs, then the passes of Evaluate on what is left (R701, R703). -/
theorem byteStep_runs {s : State} {x : Byte} {i : Instr} {tail : List Byte} (hinv : s.dec.Inv)
    (hacc : s.dec.dstate = .accumulating) (hdecode : decode (s.dec.bytes ++ [x]) = .ok (i, tail)) :
    byteStep x s = andThen (exec i { s.noteByte with dec := s.noteByte.dec.withBytes (s.dec.bytes ++ [x]) })
      (evaluate s.dec.blen) := by
  have hhead : (s.dec.bytes ++ [x]).head? = some sofByte := by
    rw [List.head?_append, bytes_head_sof hinv hacc]
    rfl
  have hcand : decodeCandidate (s.dec.withNext x).bytes = .ok (i, tail) := by
    rw [(withNext_bytes x hinv hacc).1, ← decode_of_sof hhead, hdecode]
  have hnext : s.dec.withNext x = s.noteByte.dec.withBytes (s.dec.bytes ++ [x]) := withNext_eq_withBytes x hinv hacc
  rw [byteStep_accumulating x hinv hacc, ← hnext]
  simp only [evaluate, hcand]

/-- Settles O7: with the engine's and the host's step idle, the cycle is the byte step and what comes after it. -/
theorem stepRunsReceivedFrame : Obligations.StepRunsReceivedFrame := by
  unfold Obligations.StepRunsReceivedFrame
  intro s x i tail ⟨hinv, _⟩ hrst hidle hhost hrx hen hsrc hacc hdecode
  have hengine : engineStep s.cycleNow.complete s.startCycle = .next s.startCycle := by
    rcases hidle with hcomplete | hpending
    · rw [hcomplete, engineStep_false]
    · exact engineStep_idle _ _ hpending
  have hport : rxPortStep x s.startCycle = byteStep x s.startCycle := by
    rw [rxPortStep_ctrl]
    exact if_pos ⟨hen, hsrc⟩
  calc step s
      = restOfCycle s.cycleNow s.startCycle := by rw [step_of_no_reset hrst, hengine, andThen_next]
    _ = andThen (byteStep x s.startCycle)
          (fun u => .next (tickStep s.cycleNow.tbTick (txStep s.cycleNow.txReady u))) := by
        rw [restOfCycle, hhost, hrx, hostStep, andThen_next, rxStep, hport]
    _ = _ := by
        rw [byteStep_runs (s := s.startCycle) hinv hacc hdecode, andThen_assoc]
        rfl

/-! ### The tx port -/

/-- `tx_valid` is 0 with TX_SINK = 1 or an empty FIFO (R656). -/
theorem txValid_eq_false {s : State} (h : s.ctrl.txSink = true ∨ s.txFifo = []) : s.txValid = false := by
  unfold State.txValid
  rcases h with h | h <;> rw [h]
  · rfl
  · exact Bool.and_false _

theorem txValid_eq_true {s : State} {b : Byte} {rest : List Byte} (hsink : s.ctrl.txSink = false)
    (hfifo : s.txFifo = b :: rest) : s.txValid = true := by
  unfold State.txValid
  rw [hsink, hfifo]
  rfl

/-- Without `tx_valid` nothing leaves (R221). -/
theorem txStep_of_not_valid (ready : Bool) {s : State} (h : s.txValid = false) : txStep ready s = s := by
  unfold txStep
  rw [h, Bool.and_false]
  rfl

/-- A cycle whose one input is `tx_ready` is the step of the `tx` port (R220, R221). -/
theorem step_of_txReady {s : State} (h : s.cycleNow = { Cycle.quiet with txReady := true }) :
    step s = .next (txStep true s.startCycle) := by
  rw [step_eq, h]
  rfl

/-- Settles O55: `tx_valid` decides whether the oldest byte leaves. -/
theorem txPortDrains : Obligations.TxPortDrains := by
  unfold Obligations.TxPortDrains
  intro s hcycle
  rw [step_of_txReady hcycle]
  refine ⟨fun b rest hsink hfifo => ⟨?_, ?_⟩, fun hoff => ⟨?_, ?_⟩⟩
  · rw [State.txData, txValid_eq_true hsink hfifo, hfifo]
    rfl
  · rw [txStep, startCycle_txFifo, txValid_eq_true (s := s.startCycle) hsink hfifo, hfifo, State.popTx,
      startCycle_txFifo, hfifo]
    rfl
  · rw [State.txData, txValid_eq_false hoff]
    rfl
  · rw [txStep_of_not_valid true (s := s.startCycle) (txValid_eq_false hoff)]
    rfl

end Sys2Proof.Machine
end

section
/-! # Encodings: command words (30_encoding.md R300 to R302) and frames (R310 to R313) -/

namespace Sys2Proof.Machine

/-! ### The bytes of a command word -/

/-- The low two bits of a word's byte 1 are its field TYPE (R300). -/
theorem typeField_eq_wordByte (w : Word) : typeField w = (wordByte w 1).extractLsb' 0 2 := by
  apply BitVec.eq_of_getLsbD_eq
  intro i hi
  simp [typeField, wordByte, hi, show i < 8 by omega]

/-- A command word's bytes are read by OP and TYPE alone, unless the first of them begins a frame (R300, R310). -/
theorem decode_commandBytes {op typ : Byte} {i : Instr} (hop : op ≠ sofByte)
    (hi : decodeCommand op (typ.extractLsb' 0 2) = .ok i) (rest : List Byte) :
    decode (commandBytes op typ ++ rest) = .ok (i, rest) := by
  obtain ⟨hbyte0, hbyte1, -, -⟩ := wordByte_wordOfBytes op typ 0x00#8 0x00#8
  have hword : decodeCommandWord (wordOfBytes op typ 0x00#8 0x00#8) = .ok i := by
    rw [decodeCommandWord, typeField_eq_wordByte, hbyte1, show opField _ = op from hbyte0, hi]
  calc decode (commandBytes op typ ++ rest)
      = decodeCommandBytes (commandBytes op typ ++ rest) := if_neg hop
    _ = .ok (i, rest) := by
        unfold wordOfBytes at hword
        simp only [commandBytes, List.cons_append, List.nil_append, decodeCommandBytes, hword]

/-! ### The bytes of a frame -/

theorem payloadFits_iff {t : FrameType} {payload : List Byte} : payloadFits t payload = true ↔ payload.length = t.len :=
  beq_iff_eq

theorem wf_mkFrame (t : FrameType) (seq : Byte) (payload : List Byte) (crc : BitVec 16) (eof : Byte) :
    (mkFrame t seq payload crc eof).wf = payloadFits t payload := by
  cases t <;> rfl

theorem encode_mkFrame (t : FrameType) (seq : Byte) (payload : List Byte) (crc : BitVec 16) (eof : Byte) :
    encode (mkFrame t seq payload crc eof) = frameBytes t seq payload crc eof := by
  cases t <;> rfl

/-- The CRC field stands on the wire low byte first (R310). -/
theorem frameBytes_append (t : FrameType) (seq : Byte) (payload : List Byte) (lo hi eof : Byte) (rest : List Byte) :
    frameBytes t seq payload (hi ++ lo) eof ++ rest
      = sofByte :: frameCode t :: seq :: frameLenByte t :: (payload ++ lo :: hi :: eof :: rest) := by
  have hlo : (hi ++ lo).extractLsb' 0 8 = lo := BitVec.extractLsb'_append_eq_right
  have hhi : (hi ++ lo).extractLsb' 8 8 = hi := BitVec.extractLsb'_append_eq_left
  simp only [frameBytes, hlo, hhi, List.cons_append, List.append_assoc, List.nil_append]

theorem decode_frameBytes (t : FrameType) (seq : Byte) {payload : List Byte} (crc : BitVec 16) (eof : Byte)
    (rest : List Byte) (hp : payload.length = t.len) :
    decode (frameBytes t seq payload crc eof ++ rest) = .ok (mkFrame t seq payload crc eof, rest) := by
  rw [decode_of_sof rfl, decodeCandidate_frameBytes t seq payload crc eof rest hp]

/-- What the frame decoder accepts begins with SOF and is a complete candidate (R310). -/
theorem decodeFrame_ok {bs rest : List Byte} {i : Instr} (h : decodeFrame bs = .ok (i, rest)) :
    bs.head? = some sofByte ∧ decodeCandidate bs = .ok (i, rest) := by
  cases bs with
  | nil => cases h
  | cons b tail =>
    unfold decodeFrame at h
    simp only at h
    split at h
    · next hsof => exact ⟨congrArg some hsof, h⟩
    · cases h

/-! ### Decoding and encoding undo each other -/

/-- Settles O2: a command is read back by its OP and TYPE, a frame by its header and the length of its payload. -/
theorem decodeEncodeRoundTrip : Obligations.DecodeEncodeRoundTrip := by
  unfold Obligations.DecodeEncodeRoundTrip
  intro i rest hwf
  cases i with
  | nop => exact decode_commandBytes (by decide) rfl rest
  | analyze => exact decode_commandBytes (by decide) rfl rest
  | sendFeature => exact decode_commandBytes (by decide) rfl rest
  | sendAux => exact decode_commandBytes (by decide) rfl rest
  | sendCommand => exact decode_commandBytes (by decide) rfl rest
  | sendRawFeature => exact decode_commandBytes (by decide) rfl rest
  | sendRawCommand => exact decode_commandBytes (by decide) rfl rest
  | sendRawAux => exact decode_commandBytes (by decide) rfl rest
  | resetDsp => exact decode_commandBytes (by decide) rfl rest
  | resetDecoder => exact decode_commandBytes (by decide) rfl rest
  | clearCounters => exact decode_commandBytes (by decide) rfl rest
  | resetSeq => exact decode_commandBytes (by decide) rfl rest
  | flushTx => exact decode_commandBytes (by decide) rfl rest
  | frameFeature seq payload crc eof => exact decode_frameBytes .feature seq crc eof rest (payloadFits_iff.mp hwf)
  | frameCommand seq payload crc eof => exact decode_frameBytes .command seq crc eof rest (payloadFits_iff.mp hwf)
  | frameAux seq payload crc eof => exact decode_frameBytes .aux seq crc eof rest (payloadFits_iff.mp hwf)

/-- Settles O3: of the four outcomes of reading a candidate only the complete frame is an instruction. -/
theorem encodeDecodedFrame : Obligations.EncodeDecodedFrame := by
  unfold Obligations.EncodeDecodedFrame
  intro bs rest i h
  obtain ⟨hsof, hcand⟩ := decodeFrame_ok h
  rcases decodeCandidate_cases bs with ⟨b0, t, seq, payload, lo, hi, eof, rest', rfl, hlen, hd⟩
      | ⟨_, _, _, _, -, -, hd⟩ | ⟨_, _, _, _, _, -, -, hd⟩ | ⟨-, hd⟩ <;> rw [hd] at hcand <;> cases hcand
  obtain rfl : b0 = sofByte := Option.some.inj hsof
  exact ⟨by rw [wf_mkFrame, payloadFits_iff, hlen], by rw [encode_mkFrame, frameBytes_append]⟩

/-- Settles O1: the words are the bytes of commands, and of two frames with payloads of 36 and 68 zeros. -/
theorem specWordsDecode : Obligations.SpecWordsDecode := by
  unfold Obligations.SpecWordsDecode
  have haux := decode_frameBytes .aux 0x00#8 (payload := List.replicate 36 0x00#8) 0x0624#16 0xBB#8 [] rfl
  have hfeature := decode_frameBytes .feature 0x00#8 (payload := List.replicate 68 0x00#8) 0x4FF3#16 0xBB#8 [] rfl
  exact ⟨decode_commandBytes (by decide) rfl [], decode_commandBytes (by decide) rfl [],
    decode_commandBytes (by decide) rfl [], decode_commandBytes (by decide) rfl [],
    decode_commandBytes (by decide) rfl [], haux, hfeature⟩

/-- A header that is known is one of the three pairs of type and length (R311, R313). -/
theorem knownHeader_eq_none {t l : Byte}
    (h : ¬ ((t = 0x01#8 ∧ l = 68#8) ∨ (t = 0x02#8 ∧ l = 68#8) ∨ (t = 0x03#8 ∧ l = 36#8))) :
    knownHeader t l = none := by
  refine Option.eq_none_iff_forall_ne_some.mpr fun ft hft => h ?_
  obtain ⟨ht, hl⟩ := knownHeader_spec t l ft hft
  cases ft with
  | feature => exact .inl ⟨ht, hl⟩
  | command => exact .inr (.inl ⟨ht, hl⟩)
  | aux => exact .inr (.inr ⟨ht, hl⟩)

/-- Settles O5: the header is looked at before anything behind it. -/
theorem unknownHeadersSpellNoFrame : Obligations.UnknownHeadersSpellNoFrame := by
  unfold Obligations.UnknownHeadersSpellNoFrame
  intro t q l body h
  show decodeCandidate (0xAA#8 :: t :: q :: l :: body) = _
  simp only [decodeCandidate, knownHeader_eq_none h]

/-! ### Illegal command words -/

/-- A reserved OP, or SEND_RAW with TYPE = 0 (R302). -/
def IllegalCommand (op : Byte) (typ : BitVec 2) : Prop := 0x0B#8 ≤ op ∨ (op = 0x05#8 ∧ typ = 0#2)

/-- TYPE is read for SEND_RAW alone (R300). -/
theorem decodeCommand_congr {op : Byte} {typ typ' : BitVec 2} (h : op = 0x05#8 → typ = typ') :
    decodeCommand op typ = decodeCommand op typ' := by
  by_cases hraw : op = 0x05#8
  · rw [h hraw]
  · simp only [decodeCommand, if_neg hraw]

theorem decodeCommand_illegal {op : Byte} {typ : BitVec 2} (h : IllegalCommand op typ) :
    ∃ e, decodeCommand op typ = .error e := by
  rcases h with hreserved | ⟨rfl, rfl⟩
  · have hne : ∀ c : Byte, c < 0x0B#8 → op ≠ c := by
      rintro c hc rfl
      bv_omega
    refine ⟨.reservedOpcode op, ?_⟩
    simp (disch := decide) only [decodeCommand, hne, if_false]
  · exact ⟨.rawTypeZero, rfl⟩

theorem decodeCommand_legal {op : Byte} {typ : BitVec 2} (h : ¬ IllegalCommand op typ) :
    ∃ i, decodeCommand op typ = .ok i := by
  obtain ⟨hop, hraw⟩ := not_or.mp h
  have hops : op = 0x05#8 ∨ op = 0x00#8 ∨ op = 0x01#8 ∨ op = 0x02#8 ∨ op = 0x03#8 ∨ op = 0x04#8 ∨ op = 0x06#8
      ∨ op = 0x07#8 ∨ op = 0x08#8 ∨ op = 0x09#8 ∨ op = 0x0A#8 := by bv_omega
  rcases hops with rfl | hother
  · have htyp : typ = 1#2 ∨ typ = 2#2 ∨ typ = 3#2 := by
      have hne : typ ≠ 0#2 := fun h0 => hraw ⟨rfl, h0⟩
      bv_omega
    rcases htyp with rfl | rfl | rfl <;> exact ⟨_, rfl⟩
  · rcases hother with rfl | rfl | rfl | rfl | rfl | rfl | rfl | rfl | rfl | rfl <;> exact ⟨_, rfl⟩

theorem decodeCommand_ok_iff (op : Byte) (typ : BitVec 2) :
    (∃ i, decodeCommand op typ = .ok i) ↔ ¬ IllegalCommand op typ := by
  refine ⟨fun ⟨i, hi⟩ hill => ?_, decodeCommand_legal⟩
  obtain ⟨e, he⟩ := decodeCommand_illegal hill
  rw [hi] at he
  cases he

theorem cmdErrWord_badOpcode (op : Byte) : cmdErrWord .badOpcode op 0#8 = 0x0000#16 ++ op ++ 0x01#8 := by
  revert op
  decide +kernel

/-- An illegal command's completion is the end of every command with CMD_ERR set as well and its record (R302, R801). -/
theorem badOpcode_eq (s : State) (op : Byte) :
    s.badOpcode op
      = { s.doneWith 0x41#7 (s.badOpcode op).now with cmdErr := 0x0000#16 ++ op ++ 0x01#8 } := by
  have hirq : s.irqStatus ||| irqCmdErr ||| irqCmdDone = s.irqStatus ||| 0x41#7 := BitVec.or_assoc ..
  unfold State.badOpcode State.finishCommand State.raiseCmdError State.raiseIrq State.doneWith
  simp only [hirq, cmdErrWord_badOpcode]

/-- The completion step of an illegal command (R302). -/
theorem engineStep_illegal {s : State} {p : CmdWord} (hp : s.pending = some p) (hill : IllegalCommand p.op p.typ) :
    engineStep true s = .next (s.badOpcode p.op) := by
  obtain ⟨e, he⟩ := decodeCommand_illegal hill
  simp only [engineStep, hp, he]

/-- Settles O4: a CMD write stores OP and TYPE, and these decide about the completion. -/
theorem commandWords : Obligations.CommandWords := by
  unfold Obligations.CommandWords
  intro w
  refine ⟨fun w' hop htyp => ?_, decodeCommand_ok_iff (opField w) (typeField w), fun hill s hidle => ?_⟩
  · calc decodeCommandWord w
        = decodeCommand (opField w) (typeField w') := decodeCommand_congr htyp
      _ = decodeCommandWord w' := by rw [decodeCommandWord, show opField w = opField w' from hop]
  · have hpending : ((s.answered 0#32 false).issueCommand w).pending
        = some { op := opField w, typ := typeField w } := by
      rw [issueCommand_idle (s := s.answered 0#32 false) hidle]
    exact ⟨_, _, hostAccess_write_cmd s w, congrArg Option.isSome hpending, engineStep_illegal hpending hill,
      badOpcode_eq _ _⟩

end Sys2Proof.Machine
end

section
/-! # The end of a command (40_command_engine.md R401): NOP, the maintenance commands, the frame-sending commands -/

namespace Sys2Proof.Machine

/-! ### A command that completes with CMD_DONE alone, and one that records an error -/

theorem finishCommand_eq_doneWith (s : State) : s.finishCommand = s.doneWith 0x01#7 s.finishCommand.now := rfl

/-- A command that records an error completes with CMD_DONE and CMD_ERR and the record, and nothing else (R401, R805). -/
theorem raiseCmdError_finishCommand (s : State) (code : CmdErrCode) (opcode detail : Byte) :
    (s.raiseCmdError code opcode detail).finishCommand
      = { s.doneWith 0x41#7 (s.raiseCmdError code opcode detail).finishCommand.now with
            cmdErr := cmdErrWord code opcode detail } := by
  have hirq : s.irqStatus ||| irqCmdErr ||| irqCmdDone = s.irqStatus ||| 0x41#7 := BitVec.or_assoc ..
  unfold State.finishCommand State.raiseCmdError State.raiseIrq State.doneWith
  simp only [hirq]

/-- A CMD_ERR record as four bytes (R109). -/
theorem cmdErrWord_bytes (code : CmdErrCode) (opcode detail : Byte) :
    cmdErrWord code opcode detail = 0x00#8 ++ detail ++ opcode ++ (0x0#4 ++ cmdErrNumber code) :=
  BitVec.append_assoc

/-- Settles O12: NOP is the end of every command alone. -/
theorem nopOnlyCompletes : Obligations.NopOnlyCompletes := by
  unfold Obligations.NopOnlyCompletes
  intro s
  exact ⟨s.finishCommand, rfl, finishCommand_eq_doneWith s, finishCommand_cmdDone s⟩

/-! ### The maintenance commands -/

/-- TX_LEVEL and STATUS.TX_EMPTY of an empty FIFO (R112, R105). -/
theorem readAt_of_txFifo_empty {s : State} (h : s.txFifo = []) :
    s.readAt 0x028 = 0x00000000#32 ∧ (s.readAt 0x00C).getLsbD 2 = true := by
  obtain ⟨-, -, hempty, -⟩ := statusWord_fields s
  have hlevel : s.readAt 0x028 = 0#16 ++ BitVec.ofNat 16 s.txFifo.length := readAt_of_regAt regAt_txLevel s
  refine ⟨by rw [hlevel, h]; rfl, ?_⟩
  rw [readAt_of_regAt regAt_status s]
  exact hempty.trans (by rw [State.txEmpty, h]; rfl)

/-- Settles O14: each command is one change of the state and the end of every command. -/
theorem maintenanceCommands : Obligations.MaintenanceCommands := by
  unfold Obligations.MaintenanceCommands
  intro s
  refine ⟨⟨s.resetDecoder.finishCommand, rfl, ?resetDecoder⟩, ⟨_, rfl, ?clearCounters, rfl⟩, ⟨_, rfl, ?resetSeq⟩,
    ⟨_, rfl, ?flushTx, readAt_of_txFifo_empty rfl⟩⟩
  case resetDecoder => exact finishCommand_eq_doneWith s.resetDecoder
  case clearCounters =>
    exact finishCommand_eq_doneWith { s with cnt := Counters.zero, cmdErr := 0#32, decErr := 0#32 }
  case resetSeq => exact finishCommand_eq_doneWith { s with seqTx := PerType.zero }
  case flushTx => exact finishCommand_eq_doneWith { s with txFifo := [] }

/-! ### One frame sent, or dropped -/

theorem toNat_frameLenByte (t : FrameType) : (frameLenByte t).toNat = t.len := by cases t <;> rfl

theorem encodeFrame_fits {s : State} {t : FrameType} (h : t.len + 7 ≤ s.param.txqDepth - s.txFifo.length)
    (opcode : Byte) (payload : List Byte) :
    s.encodeFrame opcode t payload = { s with
      txFifo := s.txFifo ++ wireFrame (frameCode t) (s.seqTx.get t) (frameLenByte t) payload
      seqTx := s.seqTx.set t (s.seqTx.get t + 1#8) } := by
  rcases encodeFrame_cases s opcode t payload with ⟨-, e⟩ | ⟨hfull, -⟩
  · exact e
  · omega

theorem encodeFrame_drops {s : State} {t : FrameType} (h : s.param.txqDepth - s.txFifo.length < t.len + 7)
    (opcode : Byte) (payload : List Byte) :
    s.encodeFrame opcode t payload
      = ({ s with cnt := { s.cnt with txDrop := s.cnt.txDrop + 1#32 } } : State).raiseCmdError .txOverflow opcode
          (frameCode t) := by
  rcases encodeFrame_cases s opcode t payload with ⟨hfits, -⟩ | ⟨-, e⟩
  · omega
  · exact e

/-- An instruction that is Encode and the end of every command sends one frame or drops it (R652, R653, R655). -/
theorem sendsFrame_of_exec {i : Instr} {opcode : Byte} {ft : FrameType} {payload : State → List Byte}
    (hexec : ∀ s, exec i s = .next (s.encodeFrame opcode ft (payload s)).finishCommand) :
    SendsFrame i opcode ft (frameCode ft) (frameLenByte ft) payload := by
  intro s
  rw [toNat_frameLenByte]
  refine ⟨fun hfits => ⟨_, hexec s, ?_⟩, fun hfull => ⟨_, hexec s, ?_⟩⟩
  · rw [encodeFrame_fits hfits]
    exact finishCommand_eq_doneWith _
  · rw [encodeFrame_drops hfull, raiseCmdError_finishCommand, cmdErrWord_bytes]
    rfl

/-- Settles O15: each command is Encode of its payload. -/
theorem sendCommands : Obligations.SendCommands := by
  unfold Obligations.SendCommands
  refine ⟨sendsFrame_of_exec fun s => ?_, sendsFrame_of_exec fun s => ?_, sendsFrame_of_exec fun _ => rfl⟩
  · rw [← featImage_eq]; rfl
  · rw [← auxImage_eq]; rfl

/-- Settles O16: Encode of the first bytes of TX_RAW; with TYPE = 0 the word is an illegal command. -/
theorem sendRawSends : Obligations.SendRawSends := by
  unfold Obligations.SendRawSends
  refine ⟨sendsFrame_of_exec fun s => ?_, sendsFrame_of_exec fun s => ?_, sendsFrame_of_exec fun s => ?_,
    fun s hpending => ⟨_, engineStep_illegal hpending (.inr ⟨rfl, rfl⟩), badOpcode_eq s _⟩⟩
  · rw [← txRaw_eq]; rfl
  · rw [← txRaw_eq]; rfl
  · rw [← txRaw_eq]; rfl

end Sys2Proof.Machine
end

section
/-! # ANALYZE refused (40_command_engine.md R402, R801, R809) -/

namespace Sys2Proof.Machine

/-- A refused ANALYZE records the check that failed, and nothing else. -/
theorem execAnalyze_refused {s : State} {code : CmdErrCode} {detail : Byte}
    (h : analyzeCheck s.param.nBins s.activeBands s.cfg = some (code, detail)) :
    ∃ t, exec .analyze s = .next t ∧ t = { s.doneWith 0x41#7 t.now with cmdErr := cmdErrWord code 0x01#8 detail } := by
  have hanalyze : s.analyze Config.num.fn = s.raiseCmdError code 0x01#8 detail := by
    unfold State.analyze
    rw [h]
  exact ⟨_, by rw [exec, execAnalyze, hanalyze], raiseCmdError_finishCommand s code _ detail⟩

theorem badRange_of_not_legal {n : Nat} {r : BinRange} (h : ¬ RangeLegal n r) : badRange n r = true := by
  rwa [← badRange_eq_false_iff, Bool.not_eq_false] at h

/-- The check of the bands finds the lowest one that is not legal. -/
theorem badBand_some {s : State} {i : Fin 12} (hi : i.val < s.ctrl.nbands.toNat)
    (hbad : ¬ RangeLegal s.param.nBins s.cfg.bandRange[i])
    (hbefore : ∀ j : Fin 12, j < i → RangeLegal s.param.nBins s.cfg.bandRange[j]) :
    badBand s.param.nBins s.activeBands s.cfg = some i.val := by
  unfold badBand
  rw [List.find?_range_eq_some]
  refine ⟨?_, List.mem_range.mpr hi, fun j hj => ?_⟩
  · rw [bandRange_getD]
    exact badRange_of_not_legal hbad
  · have hlegal := (badRange_eq_false_iff _ _).mpr (hbefore ⟨j, hj.trans i.isLt⟩ hj)
    rw [← bandRange_getD] at hlegal
    rw [hlegal]
    rfl

/-- With legal bands the other checks decide, in their order. -/
theorem analyzeCheck_of_bands {s : State} (h12 : s.ctrl.nbands ≤ 12#4) (hb : s.BandsLegal) :
    analyzeCheck s.param.nBins s.activeBands s.cfg
      = if badRange s.param.nBins s.cfg.chRange then some (.cfgRange, 12#8)
        else if badRange s.param.nBins s.cfg.vocRange then some (.cfgRange, 13#8)
        else if badRange s.param.nBins s.cfg.pkRange then some (.cfgRange, 14#8)
        else if masksOverlap s.activeBands s.cfg then some (.cfgMask, 0#8) else none := by
  unfold analyzeCheck
  rw [badBand_none s h12 hb]

/-- Settles O19: the checks in their order, each one reached when those before it pass. -/
theorem analyzeRefusals : Obligations.AnalyzeRefusals := by
  unfold Obligations.AnalyzeRefusals
  intro s
  have hpass : ∀ {r}, RangeLegal s.param.nBins r → badRange s.param.nBins r = false :=
    (badRange_eq_false_iff _ _).mpr
  refine ⟨fun i hi hbad hbefore => ?band, fun h12 hb hch => ?chroma, fun h12 hb hch hvoc => ?vocal,
    fun h12 hb hch hvoc hpk => ?peak, fun h12 hb hch hvoc hpk hmask => ?masks⟩
  case band =>
    have hcheck : analyzeCheck s.param.nBins s.activeBands s.cfg = some (.cfgRange, BitVec.ofNat 8 i.val) := by
      unfold analyzeCheck
      rw [badBand_some hi hbad hbefore]
    have hrefused := execAnalyze_refused hcheck
    rw [cmdErrWord_bytes] at hrefused
    exact hrefused
  case chroma =>
    refine execAnalyze_refused (code := .cfgRange) (detail := 12#8) ?_
    rw [analyzeCheck_of_bands h12 hb, if_pos (badRange_of_not_legal hch)]
  case vocal =>
    refine execAnalyze_refused (code := .cfgRange) (detail := 13#8) ?_
    simp [analyzeCheck_of_bands h12 hb, hpass hch, badRange_of_not_legal hvoc]
  case peak =>
    refine execAnalyze_refused (code := .cfgRange) (detail := 14#8) ?_
    simp [analyzeCheck_of_bands h12 hb, hpass hch, hpass hvoc, badRange_of_not_legal hpk]
  case masks =>
    have hoverlap : masksOverlap s.activeBands s.cfg = true := by
      rw [← Bool.not_eq_false]
      exact fun h => hmask ((masksOverlap_eq_false_iff _ _).mp h)
    refine execAnalyze_refused (code := .cfgMask) (detail := 0#8) ?_
    simp [analyzeCheck_of_bands h12 hb, hpass hch, hpass hvoc, hpass hpk, hoverlap]

end Sys2Proof.Machine
end

section
/-! # The automatic frames of ANALYZE (40_command_engine.md R402, R403; 45_frame_encoder.md R652 to R655) -/

namespace Sys2Proof.Machine

/-! ### The silence gate -/

theorem finRange_take_eq_filter : ∀ n : Fin 16,
    (List.finRange 12).take n.val = (List.finRange 12).filter (fun i => decide (i.val < n.val)) := by decide

/-- The first NBANDS entries of an array are those of the active bands. -/
theorem take_activeBands (s : State) (v : Vector F32 12) :
    v.toList.take s.activeBands = s.activeList.map (fun i => v[i]) := by
  have hlist : v.toList = (List.finRange 12).map (fun i => v[i]) :=
    List.ext_getElem (by simp) fun i _ _ => by simp
  have htake : (List.finRange 12).take s.activeBands = s.activeList :=
    finRange_take_eq_filter ⟨s.ctrl.nbands.toNat, s.ctrl.nbands.isLt⟩
  rw [hlist, ← List.map_take, htake]

theorem gateOpen_eq (s : State) :
    s.gateOpen = s.activeList.any (fun i => fgt s.dsp.bandSm[i] s.cfg.tun.silenceThr) := by
  unfold State.gateOpen
  rw [take_activeBands, List.any_map]
  rfl

/-! ### Each automatic frame: not tried, sent, dropped -/

section
variable {s : State}

theorem autoFeature_skipped (h : s.ctrl.autoFeat = false ∨ s.gateOpen = false) : s.autoFeature = s :=
  if_neg (by rcases h with h | h <;> simp [h])

theorem autoFeature_tried (hauto : s.ctrl.autoFeat = true) (hgate : s.gateOpen = true) :
    s.autoFeature = s.encodeFrame 0x01#8 .feature s.featImage := if_pos (by simp [hauto, hgate])

theorem autoFeature_sent (hauto : s.ctrl.autoFeat = true) (hgate : s.gateOpen = true)
    (hfree : 75 ≤ s.param.txqDepth - s.txFifo.length) :
    s.autoFeature = { s with
      txFifo := s.txFifo ++ wireFrame 0x01#8 s.seqTx.feature 0x44#8 s.featImage
      seqTx := { s.seqTx with feature := s.seqTx.feature + 1#8 } } :=
  (autoFeature_tried hauto hgate).trans (encodeFrame_fits (t := .feature) hfree _ _)

theorem autoFeature_dropped (hauto : s.ctrl.autoFeat = true) (hgate : s.gateOpen = true)
    (hfree : s.param.txqDepth - s.txFifo.length < 75) :
    s.autoFeature = ({ s with cnt := { s.cnt with txDrop := s.cnt.txDrop + 1#32 } } : State).raiseCmdError .txOverflow
      0x01#8 0x01#8 :=
  (autoFeature_tried hauto hgate).trans (encodeFrame_drops (t := .feature) hfree _ _)

theorem autoAux_skipped {v : State} (hv : s = v) (h : v.ctrl.autoAux = false) : s.autoAux = v := by
  subst hv
  exact if_neg (by simp [h])

theorem autoAux_sent {v : State} (hv : s = v) (hauto : v.ctrl.autoAux = true)
    (hfree : 43 ≤ v.param.txqDepth - v.txFifo.length) :
    s.autoAux = { v with
      txFifo := v.txFifo ++ wireFrame 0x03#8 v.seqTx.aux 0x24#8 v.auxImage
      seqTx := { v.seqTx with aux := v.seqTx.aux + 1#8 } } := by
  subst hv
  exact (if_pos hauto).trans (encodeFrame_fits (t := .aux) hfree _ _)

theorem autoAux_dropped {v : State} (hv : s = v) (hauto : v.ctrl.autoAux = true)
    (hfree : v.param.txqDepth - v.txFifo.length < 43) :
    s.autoAux = ({ v with cnt := { v.cnt with txDrop := v.cnt.txDrop + 1#32 } } : State).raiseCmdError .txOverflow
      0x01#8 0x03#8 := by
  subst hv
  exact (if_pos hauto).trans (encodeFrame_drops (t := .aux) hfree _ _)

end

/-! ### The event bits of a tick whose frames are sent, dropped once, dropped twice (R107) -/

theorem tick_bits (x : BitVec 7) : x ||| irqTickDone ||| irqCmdDone = x ||| 0x03#7 := BitVec.or_assoc ..

theorem tick_bits_dropped (x : BitVec 7) : x ||| irqTickDone ||| irqCmdErr ||| irqCmdDone = x ||| 0x43#7 := by
  rw [BitVec.or_assoc, BitVec.or_assoc]; rfl

theorem tick_bits_dropped_both (x : BitVec 7) :
    x ||| irqTickDone ||| irqCmdErr ||| irqCmdErr ||| irqCmdDone = x ||| 0x43#7 := by
  rw [BitVec.or_assoc, BitVec.or_assoc, BitVec.or_assoc]; rfl

/-- The space a sent FEATURE frame leaves (R310). -/
theorem free_after_feature (fifo payload : List Byte) (depth : Nat) (seq : Byte) (h : payload.length = 68) :
    depth - (fifo ++ wireFrame 0x01#8 seq 0x44#8 payload).length = depth - fifo.length - 75 := by
  rw [List.length_append, wireFrame_length, h, Nat.sub_sub]

/-- Settles O21: FEATURE not tried, sent or dropped, then AUX not tried, sent or dropped in the space that is left. -/
theorem analyzeAutomaticFrames : Obligations.AnalyzeAutomaticFrames := by
  unfold Obligations.AnalyzeAutomaticFrames
  intro s hlegal
  obtain ⟨t, hexec, ht, hdsp, hmem, -⟩ := execAnalyze_legal s hlegal
  have hgate : s.activeList.any (fun i => fgt t.dsp.bandSm[i] s.cfg.tun.silenceThr)
      = (s.analyzeTick Config.num.fn).gateOpen := by
    rw [hdsp, gateOpen_eq]; rfl
  have hfeature : t.bytesAt 0x600 68 = (s.analyzeTick Config.num.fn).featImage := by
    rw [bytesAt_eq, hmem]; rfl
  have haux : t.bytesAt 0x680 36 = (s.analyzeTick Config.num.fn).auxImage := by
    rw [bytesAt_eq, hmem]; rfl
  have hskip := autoFeature_skipped (s := s.analyzeTick Config.num.fn)
  have hsend := autoFeature_sent (s := s.analyzeTick Config.num.fn)
  have hdrop := autoFeature_dropped (s := s.analyzeTick Config.num.fn)
  have hleft := free_after_feature s.txFifo _ s.param.txqDepth s.seqTx.feature
    (featImage_length (s.analyzeTick Config.num.fn))
  refine ⟨t, hexec, ?_⟩
  simp only [hgate, hfeature, haux]
  refine ⟨fun hf hg ha hfree => ?both_sent, fun hf hg ha hfree => ?feature_sent, fun hf hg ha hfull => ?feature_dropped,
    fun hno ha hfree => ?aux_sent, fun hno ha hfull => ?aux_dropped, fun hno ha => ?neither,
    fun hf hg ha hfree hfull => ?aux_dropped_after, fun hf hg ha hfree hfull => ?aux_sent_after,
    fun hf hg ha hfull => ?both_dropped⟩
  case both_sent =>
    rw [ht, autoAux_sent (hsend hf hg (le_trans (by decide) hfree)) ha ((by omega : 43 ≤ _).trans_eq hleft.symm)]
    exact ⟨rfl, rfl, rfl, rfl, tick_bits _⟩
  case feature_sent =>
    rw [ht, autoAux_skipped (hsend hf hg hfree) ha]
    exact ⟨rfl, rfl, rfl, rfl, tick_bits _⟩
  case feature_dropped =>
    rw [ht, autoAux_skipped (hdrop hf hg hfull) ha]
    exact ⟨rfl, rfl, rfl, rfl, tick_bits_dropped _⟩
  case aux_sent =>
    rw [ht, autoAux_sent (hskip hno) ha hfree]
    exact ⟨rfl, rfl, rfl, rfl, tick_bits _⟩
  case aux_dropped =>
    rw [ht, autoAux_dropped (hskip hno) ha hfull]
    exact ⟨rfl, rfl, rfl, rfl, tick_bits_dropped _⟩
  case neither =>
    rw [ht, autoAux_skipped (hskip hno) ha]
    exact ⟨rfl, rfl, rfl, rfl, tick_bits _⟩
  case aux_dropped_after =>
    rw [ht, autoAux_dropped (hsend hf hg hfree) ha (hleft.trans_lt (by omega))]
    exact ⟨rfl, rfl, rfl, rfl, tick_bits_dropped _⟩
  case aux_sent_after =>
    rw [ht, autoAux_sent (hdrop hf hg hfull) ha hfree]
    exact ⟨rfl, rfl, rfl, rfl, tick_bits_dropped _⟩
  case both_dropped =>
    rw [ht, autoAux_dropped (hdrop hf hg (lt_trans hfull (by decide))) ha hfull]
    have htwo : s.cnt.txDrop + 1#32 + 1#32 = s.cnt.txDrop + 2#32 := BitVec.add_assoc ..
    exact ⟨rfl, rfl, congrArg (fun drops => { s.cnt with txDrop := drops }) htwo, rfl, tick_bits_dropped_both _⟩

end Sys2Proof.Machine
end

section
/-! # ANALYZE from reset (40_command_engine.md R402): silence in, the reset images out

With BIN RAM at reset every magnitude is `+0.0`, so every stage runs on constants but for `N_BINS` and `NUM.log1p`. -/

namespace Sys2Proof.Machine

/-! ### Zero through the operations that read an open value -/

/-- Zero over any value is a zero or NaN (R18). -/
theorem fdiv_zero_cases (y : F32) :
    fdiv fzero y = 0x00000000#32 ∨ fdiv fzero y = 0x80000000#32 ∨ fdiv fzero y = 0x7FC00000#32 := by
  by_cases hnan : fIsNaN y = true
  · exact .inr (.inr (fdiv_of_nan (.inr hnan)))
  by_cases hinf : fIsInf y = true
  · rw [fdiv_finite_inf rfl hinf]
    split <;> simp
  by_cases h0 : fmagBits y = 0
  · exact .inr (.inr (by rw [fdiv_by_zero rfl h0]; rfl))
  have hfinite : fIsFinite y = true := by
    rw [fIsNaN_iff] at hnan
    rw [fIsInf_iff] at hinf
    exact (fIsFinite_iff y).mpr (by omega)
  have hquotient : fdiv fzero y = fpack (fsign fzero != fsign y) 0 := by
    rw [fdiv_finite rfl hfinite h0, show fmant fzero = 0 from rfl, Nat.zero_shiftLeft, Nat.zero_div, Nat.zero_mod]
    rfl
  rw [hquotient, fpack_zero]
  split <;> simp

/-- Compression of zero is zero, whatever `NUM.log1p` makes of the scale (R26, P1 of R11). -/
theorem logCompress_zero {log1p : F32 → F32} (hlog : log1p fzero = fzero) {k : F32} (hk : fmul k fzero = fzero) :
    logCompress log1p k fzero = fzero := by
  unfold logCompress
  rw [hk, hlog]
  rcases fdiv_zero_cases (log1p k) with h | h | h <;> rw [h] <;> decide +kernel

/-- A peak at 0 Hz stays there, whatever Nyquist is (R602). -/
theorem hz16_clamped_zero (nyq : F32) : hz16 (if fgt fzero nyq then nyq else fzero) = 0#16 := by
  split
  · next hbelow =>
    obtain ⟨-, -, hlt⟩ := (fgt_iff _ _).mp hbelow
    refine hz16_zero (Bool.eq_false_iff.mpr fun habove => ?_)
    obtain ⟨-, -, hgt⟩ := (fgt_iff _ _).mp habove
    exact lt_asymm hlt hgt
  · rfl

/-! ### The stages from reset -/

/-- Of the new history the FEATURE payload shows the vocal part and the band energies alone (R320). -/
theorem tickFeat_eq (log1p : F32 → F32) (s : State) : s.tickFeat log1p
    = featFields { s.tickVocal.1 with bandSm := s.tickBandSm } s.tickVocal.2 (chromaBytes s.cfg s.tickChSm) s.tickPitch.1
        s.tickPitch.2 := by
  unfold State.tickFeat State.tickHistory featFields lockFlag
  rfl

theorem tickHistory_floorSeeded (log1p : F32 → F32) (s : State) :
    (s.tickHistory log1p).floorSeeded = s.tickVocal.1.floorSeeded := by
  unfold State.tickHistory
  rfl

section
variable (p : Param)

/-- BIN RAM is silent after reset (R133). -/
theorem mag_reset : (State.resetWith p).mag = fun _ => fzero := by
  funext b
  have hbyte : ∀ a, 0x1000 ≤ a → memRead [] a = 0#8 := by
    intro a ha
    unfold memRead memResetByte
    rw [if_neg (by omega), if_neg (by omega)]
  have hbin : (State.resetWith p).bin b = 0#32 := by
    unfold State.bin
    split
    · show memReadWord [] (0x1000 + 4 * b) = _
      unfold memReadWord
      rw [hbyte _ (by omega), hbyte _ (by omega), hbyte _ (by omega), hbyte _ (by omega)]
      rfl
    · rfl
  rw [State.mag, hbin]
  decide +kernel

theorem tickRaw_reset : (State.resetWith p).tickRaw = Vector.replicate 12 fzero := by
  unfold State.tickRaw
  rw [mag_reset]
  show rawBands DspConfig.reset 12 (fun _ => fzero) = _
  decide +kernel

theorem tickBandSm_reset : (State.resetWith p).tickBandSm = Vector.replicate 12 fzero := by
  unfold State.tickBandSm
  rw [tickRaw_reset]
  show smoothBands DspConfig.reset 12 _ DspHistory.reset.bandSm = _
  decide +kernel

theorem tickChSm_reset : (State.resetWith p).tickChSm = Vector.replicate 12 fzero := by
  unfold State.tickChSm
  rw [mag_reset]
  show smoothChroma DspConfig.reset _ State.reset.lut DspHistory.reset.chSm = _
  decide +kernel

/-- No class is dominant in silence (R505). -/
theorem tickPitch_reset : (State.resetWith p).tickPitch = (255#8, 0#8) := by
  unfold State.tickPitch
  rw [tickChSm_reset]
  show dominantPitch DspConfig.reset _ = _
  decide +kernel

/-- The vocal stage seeds the noise floor and finds no onset (R552, R556). -/
theorem tickVocal_reset : (State.resetWith p).tickVocal = ({ DspHistory.reset with floorSeeded := true }, false) := by
  unfold State.tickVocal
  rw [mag_reset, tickPitch_reset]
  show vocalStage DspConfig.reset _ _ _ DspHistory.reset = _
  decide +kernel

/-- The FEATURE payload of a silent first tick is the reset image (R127, R320). -/
theorem tickFeat_reset (log1p : F32 → F32) : (State.resetWith p).tickFeat log1p = featResetImage := by
  rw [tickFeat_eq, tickVocal_reset, tickBandSm_reset, tickChSm_reset, tickPitch_reset]
  show featFields _ _ (chromaBytes DspConfig.reset _) _ _ = _
  decide +kernel

variable {log1p : F32 → F32} (hlog : log1p fzero = fzero)
include hlog

theorem tickVis_reset : (State.resetWith p).tickVis log1p = Vector.replicate 12 fzero := by
  have htarget : visTarget log1p (State.resetWith p).cfg fzero = fzero := by
    show logCompress log1p DspConfig.reset.tun.kVis (fmul fzero DspConfig.reset.tun.visScale) = _
    rw [show fmul fzero DspConfig.reset.tun.visScale = fzero by decide +kernel]
    exact logCompress_zero hlog (by decide +kernel)
  have hprev : ∀ i : Fin 12, (State.resetWith p).dsp.vis[i] = fzero := replicate_zero_getElem
  have hraw : ∀ i : Fin 12, (Vector.replicate 12 fzero)[i] = fzero := replicate_zero_getElem
  have hblend : visBlend fzero fzero = fzero := by decide +kernel
  unfold State.tickVis nextVis
  simp only [tickRaw_reset, hprev, hraw, htarget, hblend, ite_self]
  rfl

/-- The AUX payload of a silent first tick: the band count, and zeros (R609). -/
theorem tickAux_reset : (State.resetWith p).tickAux log1p = List.replicate 33 0#8 ++ [12#8, 0#8, 0#8] := by
  have hfreq : peakFreq p.nBins (fun _ => fzero) DspConfig.reset.pkRange DspConfig.reset.tun.binHz
      (peakBin (fun _ => fzero) DspConfig.reset.pkRange).2 = 0#16 := by
    unfold peakFreq
    rw [show peakHz (fun _ => fzero) DspConfig.reset.pkRange DspConfig.reset.tun.binHz
      (peakBin (fun _ => fzero) DspConfig.reset.pkRange).2 = fzero by decide +kernel]
    exact hz16_clamped_zero _
  have hmag : peakMag log1p DspConfig.reset (peakBin (fun _ => fzero) DspConfig.reset.pkRange).1 = 0#8 := by
    unfold peakMag
    rw [show (peakBin (fun _ => fzero) DspConfig.reset.pkRange).1 = fzero by decide +kernel,
      logCompress_zero hlog (by decide +kernel)]
    decide +kernel
  unfold State.tickAux
  rw [tickVis_reset p hlog, mag_reset]
  show auxFields log1p p.nBins DspConfig.reset 12 _ _ (visRise 12 _ DspHistory.reset.vis) DspHistory.reset.gavg = _
  unfold auxFields
  rw [hfreq, hmag]
  decide +kernel

end

theorem resetWith_analyzeLegal {p : Param} (hp : p.Legal) : (State.resetWith p).AnalyzeLegal := by
  obtain ⟨hbins, -⟩ := hp
  have hrange : RangeLegal p.nBins BinRange.reset := ⟨by decide, hbins⟩
  have hmasks : State.reset.MasksDisjoint := by decide
  have hband : ∀ r, r = BinRange.reset → RangeLegal p.nBins r := by
    rintro r rfl
    exact hrange
  exact ⟨BitVec.le_refl _, fun i _ => hband _ (Vector.getElem_replicate ..), hrange, hrange, hrange, hmasks⟩

/-- Settles O32: the tick of a silent block writes the reset images, but for the band count. -/
theorem analyzeFromReset : Obligations.AnalyzeFromReset := by
  unfold Obligations.AnalyzeFromReset
  intro p hp
  obtain ⟨t, hexec, -, hdsp, hmem, htick⟩ := execAnalyze_legal _ (resetWith_analyzeLegal hp)
  have hlog : Config.num.fn fzero = fzero := Config.num.laws.zero
  have hfeat : ∀ k < 68, featResetImage.getD k 0#8 = if k = 50 ∨ k = 65 then 0xFF#8 else 0x00#8 := by decide
  have haux : ∀ k < 36, (List.replicate 33 0#8 ++ [12#8, 0#8, 0#8]).getD k 0#8 = if k = 33 then 12#8 else 0x00#8 := by
    decide
  refine ⟨t, hexec, fun k hk => ?_, fun k hk => ?_, ?_, htick⟩
  · rw [hmem, memRead_feat _ _ _ (tickFeat_length _ _) k hk, tickFeat_reset, hfeat k hk]
  · rw [hmem, memRead_aux _ _ _ (tickAux_length _ _) k hk, tickAux_reset p hlog, haux k hk]
  · rw [hdsp, tickHistory_floorSeeded, tickVocal_reset]

end Sys2Proof.Machine
end

section
/-! # The band energies of a tick (41_band_analyzer.md R451 to R454) -/

namespace Sys2Proof.Machine

/-! ### RMS over a range -/

theorem mem_binsOf {r : BinRange} {b : Nat} : b ∈ binsOf r ↔ r.lo.toNat ≤ b ∧ b ≤ r.hi.toNat := by
  unfold binsOf
  rw [List.mem_range'_1]
  omega

/-- Below `N_BINS` the sanitised bins are the magnitudes of R450. -/
theorem mag_of_mem_binsOf {s : State} {r : BinRange} (hr : RangeLegal s.param.nBins r) {b : Nat} (hb : b ∈ binsOf r) :
    s.mag b = s.magnitude b := by
  obtain ⟨-, hlast⟩ := mem_binsOf.mp hb
  obtain ⟨-, hbins⟩ := hr
  exact mag_eq s b (Nat.lt_of_le_of_lt hlast hbins)

/-- The recursion over a legal range is the RMS of R451 and R551. -/
theorem rangeRms_eq_rmsOf {s : State} {r : BinRange} (hr : RangeLegal s.param.nBins r) :
    rangeRms s.mag r = s.rmsOf r := by
  have hsquares : (binsOf r).map (fun b => fmul (s.mag b) (s.mag b))
      = (binsOf r).map (fun b => fmul (s.magnitude b) (s.magnitude b)) :=
    List.map_congr_left fun b hb => by rw [mag_of_mem_binsOf hr hb]
  have hsum : sumSquares s.mag fzero r.lo.toNat r.count
      = sumOf ((binsOf r).map (fun b => fmul (s.magnitude b) (s.magnitude b))) := by
    rw [← hsquares]
    exact sumSquares_eq s.mag fzero r.lo.toNat r.count
  unfold rangeRms State.rmsOf
  rw [hsum]
  rfl

/-! ### The energies of an active band -/

/-- Gain and tilt on the RMS (R452). -/
theorem tickRaw_active {s : State} {i : Fin 12} (hi : i.val < s.activeBands)
    (hr : RangeLegal s.param.nBins s.cfg.bandRange[i]) : s.tickRaw[i] = s.rawEnergy i := by
  unfold State.tickRaw rawBands
  rw [vec12_getElem, if_pos hi, bandRaw, rangeRms_eq_rmsOf hr]
  rfl

/-- The smoothing of R453. -/
theorem tickBandSm_active {s : State} {i : Fin 12} (hi : i.val < s.activeBands)
    (hr : RangeLegal s.param.nBins s.cfg.bandRange[i]) :
    s.tickBandSm[i] = smooth s.cfg.tun.alphaBand s.dsp.bandSm[i] (s.rawEnergy i) := by
  unfold State.tickBandSm smoothBands
  rw [vec12_getElem, if_pos hi, tickRaw_active hi hr]

/-- Settles O22: an active band by its RMS, gain, tilt and smoothing, an inactive one by its zero; the image shows both. -/
theorem analyzeBandEnergies : Obligations.AnalyzeBandEnergies := by
  unfold Obligations.AnalyzeBandEnergies
  intro s hs
  obtain ⟨t, hexec, -, hdsp, hmem, -⟩ := execAnalyze_legal s hs
  obtain ⟨-, hbands, -⟩ := hs
  refine ⟨t, hexec, fun i => ?_⟩
  rw [hdsp, hmem]
  refine ⟨fun hactive => ?_, fun hinactive => ?_, ?_⟩
  · exact tickBandSm_active hactive (hbands i hactive)
  · exact (tickHistory_inactive _ s i hinactive).1
  · exact memReadWord_feat_band _ s i

end Sys2Proof.Machine
end

section
/-! # The chroma and the dominant pitch of a tick (42_chroma_pitch.md R501 to R505) -/

namespace Sys2Proof.Machine

/-! ### The power of a pitch class -/

/-- Each byte of a word holds two fields of four bits, the even one in the low half. -/
theorem toNat_extractLsb'_nibble (w : Word) (i : Nat) :
    (w.extractLsb' (4 * i) 4).toNat = if i % 2 = 0 then (w.extractLsb' (8 * (i / 2)) 8).toNat % 16
      else (w.extractLsb' (8 * (i / 2)) 8).toNat / 16 := by
  simp only [BitVec.extractLsb'_toNat, Nat.shiftRight_eq_div_pow]
  split
  · rw [show 4 * i = 8 * (i / 2) by omega]
    omega
  · rw [show 4 * i = 8 * (i / 2) + 4 by omega, Nat.pow_add, ← Nat.div_div_eq_div_mul]
    omega

/-- The entries of the LUT by words and by bytes (R126). -/
theorem lut_eq_lutEntry (s : State) (b : Nat) : s.lut b = s.lutEntry b := by
  unfold State.lut State.lutEntry
  rw [toNat_extractLsb'_nibble, wordByte_memReadWord _ _ (by omega : b % 8 / 2 < 4),
    show lutBase + 4 * (b / 8) + b % 8 / 2 = 0x400 + b / 2 by unfold lutBase; omega,
    show b % 8 % 2 = b % 2 by omega]

/-- The recursion of R501 is a sum over the bins of the class. -/
theorem classPower_eq (m : Nat → F32) (lut : Nat → Nat) (p : Nat) (acc : F32) (b n : Nat) :
    classPower m lut p acc b n
      = (((List.range' b n).filter (fun b => lut b == p)).map (fun b => fmul (m b) (m b))).foldl fadd acc := by
  induction n generalizing acc b with
  | zero => rfl
  | succ n ih =>
    rw [classPower, ih, List.range'_succ]
    by_cases hclass : lut b = p
    · rw [if_pos hclass, List.filter_cons_of_pos (by simpa using hclass), List.map_cons, List.foldl_cons]
    · rw [if_neg hclass, List.filter_cons_of_neg (by simpa using hclass)]

/-- The recursion over a legal range is the amplitude of R501. -/
theorem classAmp_eq_chromaAmp {s : State} (hr : RangeLegal s.param.nBins s.cfg.chRange) (p : Fin 12) :
    classAmp s.cfg s.mag s.lut p = s.chromaAmp p := by
  have hclass : (fun b => s.lut b == p.val) = fun b => s.lutEntry b == p.val := by
    funext b
    rw [lut_eq_lutEntry]
  have hsquares : ((binsOf s.cfg.chRange).filter (fun b => s.lutEntry b == p.val)).map
        (fun b => fmul (s.mag b) (s.mag b))
      = ((binsOf s.cfg.chRange).filter (fun b => s.lutEntry b == p.val)).map
          (fun b => fmul (s.magnitude b) (s.magnitude b)) :=
    List.map_congr_left fun b hb => by rw [mag_of_mem_binsOf hr (List.mem_of_mem_filter hb)]
  unfold classAmp State.chromaAmp
  rw [classPower_eq, hclass, ← hsquares]
  rfl

/-- The smoothing of R502. -/
theorem tickChSm_eq {s : State} (hr : RangeLegal s.param.nBins s.cfg.chRange) (p : Fin 12) :
    s.tickChSm[p] = smooth s.cfg.tun.alphaChroma s.dsp.chSm[p] (s.chromaAmp p) := by
  unfold State.tickChSm smoothChroma
  rw [vec12_getElem, classAmp_eq_chromaAmp hr]

theorem tickHistory_chSm (log1p : F32 → F32) (s : State) : (s.tickHistory log1p).chSm = s.tickChSm := rfl

/-- Settles O23: each class by its power, root and smoothing. -/
theorem analyzeChroma : Obligations.AnalyzeChroma := by
  unfold Obligations.AnalyzeChroma
  intro s hs
  obtain ⟨t, hexec, -, hdsp, -⟩ := execAnalyze_legal s hs
  obtain ⟨-, -, hchroma, -⟩ := hs
  refine ⟨t, hexec, fun p => ?_⟩
  rw [hdsp, tickHistory_chSm]
  exact tickChSm_eq hchroma p

/-! ### The first maximum -/

/-- `am` is the index that the search of R503 reports for `f 0`, …, `f (n - 1)`: nothing exceeds a NaN in front; else
nothing exceeds `f am`, and no value before it is as large. -/
structure IsFirstMax (f : Nat → F32) (n am : Nat) : Prop where
  lt : am < n
  of_nan : fIsNaN (f 0) = true → am = 0
  max : fIsNaN (f 0) = false → ∀ i < n, fgt (f i) (f am) = false
  first : fIsNaN (f 0) = false → ∀ i < am, fIsNaN (f i) = false → fgt (f am) (f i) = true

theorem fgt_self (x : F32) : fgt x x = false := by
  rw [Bool.eq_false_iff, ne_eq, fgt_iff]
  exact fun ⟨_, _, hlt⟩ => lt_irrefl _ hlt

theorem fgt_trans {x y z : F32} (hxy : fgt x y = true) (hyz : fgt y z = true) : fgt x z = true := by
  obtain ⟨hx, -, hlt⟩ := (fgt_iff x y).mp hxy
  obtain ⟨-, hz, hlt'⟩ := (fgt_iff y z).mp hyz
  exact (fgt_iff x z).mpr ⟨hx, hz, hlt'.trans hlt⟩

/-- A value above `y` is above everything that `y` is not below. -/
theorem fgt_of_fgt_of_not_fgt {x y z : F32} (hxy : fgt x y = true) (hzy : fgt z y = false) (hz : fIsNaN z = false) :
    fgt x z = true := by
  obtain ⟨hx, hy, hlt⟩ := (fgt_iff x y).mp hxy
  have hle : unitsOf z ≤ unitsOf y :=
    not_lt.mp fun hgt => Bool.eq_false_iff.mp hzy ((fgt_iff z y).mpr ⟨hz, hy, hgt⟩)
  exact (fgt_iff x z).mpr ⟨hx, hz, hle.trans_lt hlt⟩

namespace IsFirstMax

variable {f : Nat → F32} {n am : Nat}

theorem start (f : Nat → F32) : IsFirstMax f 1 0 where
  lt := Nat.one_pos
  of_nan _ := rfl
  max _ i hi := by rw [Nat.lt_one_iff.mp hi, fgt_self]
  first _ i hi := absurd hi (Nat.not_lt_zero i)

/-- A larger value takes over. -/
theorem take (h : IsFirstMax f n am) (hgt : fgt (f n) (f am) = true) : IsFirstMax f (n + 1) n where
  lt := Nat.lt_succ_self n
  of_nan hnan := by
    rw [h.of_nan hnan, fgt_of_nan (.inr hnan)] at hgt
    cases hgt
  max hnum i hi := by
    rcases Nat.lt_succ_iff_lt_or_eq.mp hi with hlt | rfl
    · exact Bool.eq_false_iff.mpr fun hbeats => Bool.eq_false_iff.mp (h.max hnum i hlt) (fgt_trans hbeats hgt)
    · exact fgt_self _
  first hnum i hi hi' := fgt_of_fgt_of_not_fgt hgt (h.max hnum i hi) hi'

/-- A value that is not larger changes nothing. -/
theorem skip (h : IsFirstMax f n am) (hgt : fgt (f n) (f am) = false) : IsFirstMax f (n + 1) am where
  lt := Nat.lt_succ_of_lt h.lt
  of_nan := h.of_nan
  max hnum i hi := by
    rcases Nat.lt_succ_iff_lt_or_eq.mp hi with hlt | rfl
    · exact h.max hnum i hlt
    · exact hgt
  first := h.first

end IsFirstMax

/-- The search goes on from the first maximum so far to the first maximum of all. -/
theorem firstMax_isFirstMax {f : Nat → F32} {p am : Nat} (h : IsFirstMax f p am) (n : Nat) :
    ∃ am', firstMax (f am) am p ((List.range' p n).map f) = (f am', am') ∧ IsFirstMax f (p + n) am' := by
  induction n generalizing p am with
  | zero => exact ⟨am, rfl, h⟩
  | succ n ih =>
    rw [List.range'_succ, List.map_cons, firstMax, show p + (n + 1) = p + 1 + n by omega]
    split
    · next hgt => exact ih (h.take hgt)
    · next hgt => exact ih (h.skip (Bool.eq_false_iff.mpr hgt))

/-- The smoothed chroma of class `i`, as a function on the naturals. -/
def classValue (ch : Vector F32 12) (i : Nat) : F32 := ch.toList.getD i fzero

@[simp] theorem classValue_fin (ch : Vector F32 12) (p : Fin 12) : classValue ch p.val = ch[p] := by
  simp [classValue]

theorem toList_tail_eq_classValue (ch : Vector F32 12) :
    ch.toList.tail = (List.range' 1 11).map (classValue ch) := by
  refine List.ext_getElem (by simp) fun i hi _ => ?_
  have hi : i + 1 < 12 := by simp at hi; omega
  have hindex : 1 + 1 * i = (⟨i + 1, hi⟩ : Fin 12).val := by
    show 1 + 1 * i = i + 1
    omega
  rw [List.getElem_map, List.getElem_range', hindex, classValue_fin]
  simp

/-- `mx` and `am` of R503. -/
theorem chromaMax_isFirstMax (ch : Vector F32 12) :
    ∃ am : Fin 12, chromaMax ch = (ch[am], am.val) ∧ IsFirstMax (classValue ch) 12 am.val := by
  obtain ⟨am, hsearch, hmax⟩ := firstMax_isFirstMax (IsFirstMax.start (classValue ch)) 11
  refine ⟨⟨am, hmax.lt⟩, ?_, hmax⟩
  rw [← classValue_fin ch ⟨am, hmax.lt⟩, ← hsearch, ← toList_tail_eq_classValue]
  exact congrArg (firstMax · 0 1 ch.toList.tail) (classValue_fin ch 0).symm

/-! ### The dominant pitch, given the first maximum -/

section
variable {cfg : DspConfig} {ch : Vector F32 12} {am : Fin 12} (hmax : chromaMax ch = (ch[am], am.val))
include hmax

theorem chromaByte_of_max (p : Fin 12) :
    chromaByte cfg ch p = q8 (fdiv ch[p] (ffloorAt ch[am] cfg.tun.minPeak)) := by
  rw [chromaByte, hmax]

theorem peakRatio_of_max : peakRatio cfg ch
    = fdiv ch[am] (ffloorAt (fdiv (sumOf ch.toList) (f32OfNat 12)) cfg.tun.minPeak) := by
  have hval : ch.toList.getD am.val fzero = ch[am] := classValue_fin ch am
  rw [peakRatio, hmax, hval, fsum_eq]
  rfl

/-- The floor and the confidence ratio decide over class `am` (R505). -/
theorem dominantPitch_of_max : dominantPitch cfg ch
    = if cfg.chFloor < chromaByte cfg ch am ∧ fgt (peakRatio cfg ch) cfg.tun.confRatio = true then
        (BitVec.ofNat 8 am.val, str8 (peakRatio cfg ch))
      else (255#8, 0#8) := by
  have hbyte : (chromaBytes cfg ch).toList.getD am.val 0#8 = chromaByte cfg ch am := by
    rw [chromaBytes, ← vec12_getElem (chromaByte cfg ch) am]
    simp
  rw [dominantPitch, hmax, hbyte]

end

/-! ### Where the FEATURE payload shows them (R320) -/

/-- Behind the band energies and the vocal bytes stand the chroma bytes and the rest. -/
theorem featFields_getD_chroma (h : DspHistory) (onset : Bool) (chroma : Vector Byte 12) (dom pstr : Byte) (k : Nat) :
    (featFields h onset chroma dom pstr).getD (53 + k) 0#8
      = (chroma.toList ++ [dom, pstr, boolByte h.susActive]).getD k 0#8 := by
  have hbands : (h.bandSm.toList.flatMap bytesOfWord).length = 48 := by
    rw [List.length_flatMap]
    simp [bytesOfWord]
  unfold featFields
  rw [List.append_assoc _ chroma.toList, List.getD_append_right _ _ _ _ (by simp [hbands])]
  simp [hbands]

section
variable (log1p : F32 → F32) (s : State)

theorem tickFeat_chroma (p : Fin 12) :
    (s.tickFeat log1p).getD (53 + p.val) 0#8 = chromaByte s.cfg s.tickChSm p := by
  rw [State.tickFeat, featFields_getD_chroma, List.getD_append _ _ _ _ (by simp), chromaBytes,
    ← vec12_getElem (chromaByte s.cfg s.tickChSm) p]
  simp

theorem tickFeat_pitch :
    (s.tickFeat log1p).getD 65 0#8 = s.tickPitch.1 ∧ (s.tickFeat log1p).getD 66 0#8 = s.tickPitch.2 := by
  refine ⟨?_, ?_⟩
  · exact featFields_getD_chroma _ _ _ _ _ 12
  · exact featFields_getD_chroma _ _ _ _ _ 13

end

/-- Settles O24: the search finds the first maximum, and the image shows what its value, the floor and the ratio make of
it. -/
theorem analyzePitch : Obligations.AnalyzePitch := by
  unfold Obligations.AnalyzePitch
  intro s hs
  obtain ⟨t, hexec, -, hdsp, hmem, -⟩ := execAnalyze_legal s hs
  have hread : ∀ k < 68, memRead t.mem (0x600 + k) = (s.tickFeat Config.num.fn).getD k 0#8 := fun k hk => by
    rw [hmem, memRead_feat _ _ _ (tickFeat_length _ s) k hk]
  have hchroma : ∀ p : Fin 12, memRead t.mem (0x635 + p.val) = chromaByte s.cfg s.tickChSm p := fun p => by
    rw [← tickFeat_chroma Config.num.fn s p, ← hread _ (by omega), ← Nat.add_assoc]
  obtain ⟨hdom, hstr⟩ := tickFeat_pitch Config.num.fn s
  rw [← hread 65 (by omega)] at hdom
  rw [← hread 66 (by omega)] at hstr
  obtain ⟨am, hmax, hfirst⟩ := chromaMax_isFirstMax s.tickChSm
  have hpitch : s.tickPitch = _ := dominantPitch_of_max hmax
  have hratio : peakRatio s.cfg s.tickChSm = _ := peakRatio_of_max hmax
  refine ⟨t, hexec, am, ?_⟩
  rw [show t.dsp.chSm = s.tickChSm by rw [hdsp, tickHistory_chSm]]
  refine ⟨fun hnan => Fin.ext (hfirst.of_nan hnan), fun hnum => ⟨fun p => ?_, fun p hp hpnum => ?_⟩, ?_⟩
  · simpa using hfirst.max hnum p.val p.isLt
  · simpa using hfirst.first hnum p.val hp (by simpa using hpnum)
  · intro floor dv mean pr
    rw [show peakRatio s.cfg s.tickChSm = pr from hratio] at hpitch
    rw [hchroma am, hdom, hstr, hpitch]
    refine ⟨fun p => (hchroma p).trans (chromaByte_of_max hmax p), fun hclear => ?_, fun hunclear => ?_⟩
    · rw [if_pos hclear]
      exact ⟨rfl, rfl⟩
    · rw [if_neg hunclear]
      exact ⟨rfl, rfl⟩

end Sys2Proof.Machine
end

section
/-! # The vocal stage of a tick (43_vocal_envelope.md R551 to R560) -/

namespace Sys2Proof.Machine

/-! ### The saturating counts -/

theorem satInc16_toNat (c : BitVec 16) : (satInc16 c).toNat = min (c.toNat + 1) 65535 := by
  unfold satInc16
  split
  · next hmax => subst hmax; rfl
  · next hmax => bv_omega

theorem satInc8_toNat (c : Byte) : (satInc8 c).toNat = min (c.toNat + 1) 255 := by
  unfold satInc8
  split
  · next hmax => subst hmax; rfl
  · next hmax => bv_omega

/-! ### The envelope (R551 to R554) -/

theorem rawEnvelope_eq {s : State} (hr : RangeLegal s.param.nBins s.cfg.vocRange) :
    rawEnvelope s.cfg s.mag = fmul (s.rmsOf s.cfg.vocRange) s.cfg.tun.vocScale := by
  rw [rawEnvelope, rangeRms_eq_rmsOf hr]

section
variable {cfg : DspConfig} {h : DspHistory} {rawv prev gated : F32}

theorem nextFloor_unseeded (hseed : h.floorSeeded = false) : nextFloor cfg h rawv = rawv := by
  rw [nextFloor, hseed]; rfl

theorem nextFloor_seeded (hseed : h.floorSeeded = true) :
    nextFloor cfg h rawv = smooth cfg.tun.betaFloor h.nfloor rawv := by
  rw [nextFloor, if_pos hseed]

theorem nextEnv_attack (hrise : fgt gated prev = true) :
    nextEnv cfg prev gated = fadd prev (fmul cfg.tun.attack (fsub gated prev)) := by
  rw [nextEnv, if_pos hrise]

theorem nextEnv_release (hfall : fgt gated prev = false) :
    nextEnv cfg prev gated = fadd prev (fmul cfg.tun.releaseCoef (fsub gated prev)) := by
  rw [nextEnv, hfall]; rfl

end

/-! ### The onset test (R556) -/

/-- The refractory comparison on the naturals. -/
theorem isOnset_satInc16 (cfg : DspConfig) (env delta : F32) (c : BitVec 16) :
    isOnset cfg env delta (satInc16 c) = (fgt env cfg.tun.onsetThr && fgt delta cfg.tun.slopeThr
      && decide (cfg.refract.toNat ≤ min (c.toNat + 1) 65535)) := by
  simp only [isOnset, BitVec.le_def, satInc16_toNat]

/-! ### The steps of the sustain hysteresis as updates of the history (R558) -/

/-- Whether this tick carries a candidate run on, or begins one. -/
def sustainRun (cfg : DspConfig) (env : F32) (dom : Byte) : Bool := dom != pitchNone && fgt env cfg.tun.susEngage

/-- `cand_cnt` after this tick. -/
def sustainCount (cfg : DspConfig) (env : F32) (dom candPc candCnt : Byte) : Byte :=
  if sustainRun cfg env dom then (if dom = candPc then satInc8 candCnt else 1#8) else 0#8

section
variable (cfg : DspConfig) (env : F32) (dom : Byte) (h : DspHistory)

theorem sustainExit_eq :
    sustainExit cfg env h = { h with susActive := h.susActive && !flt env cfg.tun.susRelease } := by
  unfold sustainExit
  split
  · next hexit =>
    obtain ⟨-, hbelow⟩ := Bool.and_eq_true_iff.mp hexit
    simp [hbelow]
  · next hstay =>
    have hkeep : (h.susActive && !flt env cfg.tun.susRelease) = h.susActive := by
      cases hactive : h.susActive <;> simp_all
    rw [hkeep]

theorem sustainCandidate_eq : sustainCandidate cfg env dom h
    = { h with
        candPc := if sustainRun cfg env dom then dom else pitchNone
        candCnt := sustainCount cfg env dom h.candPc h.candCnt } := by
  unfold sustainCandidate sustainCount sustainRun
  split
  · split
    · next hsame => rw [hsame]
    · rfl
  · rfl

theorem sustainEnter_eq : sustainEnter cfg h
    = { h with
        susActive := h.susActive || decide (cfg.susN ≤ h.candCnt)
        susPc := if cfg.susN ≤ h.candCnt then h.candPc else h.susPc } := by
  unfold sustainEnter
  split
  · next henter => simp [henter]
  · next hbelow => simp [hbelow]

/-- Exit, candidate run and entry, in the order of R558. -/
def sustainStep : DspHistory :=
  sustainEnter cfg (sustainCandidate cfg h.env dom (sustainExit cfg h.env h))

theorem sustainStep_eq : sustainStep cfg dom h
    = { h with
        candPc := if sustainRun cfg h.env dom then dom else pitchNone
        candCnt := sustainCount cfg h.env dom h.candPc h.candCnt
        susActive := (h.susActive && !flt h.env cfg.tun.susRelease)
          || decide (cfg.susN ≤ sustainCount cfg h.env dom h.candPc h.candCnt)
        susPc := if cfg.susN ≤ sustainCount cfg h.env dom h.candPc h.candCnt then
            (if sustainRun cfg h.env dom then dom else pitchNone)
          else h.susPc } := by
  rw [sustainStep, sustainEnter_eq, sustainCandidate_eq, sustainExit_eq]

end

section
variable {cfg : DspConfig} {env : F32} {dom candPc candCnt : Byte}

theorem sustainCount_same (hrun : sustainRun cfg env dom = true) (hsame : dom = candPc) :
    sustainCount cfg env dom candPc candCnt = satInc8 candCnt := by
  rw [sustainCount, if_pos hrun, if_pos hsame]

theorem sustainCount_other (hrun : sustainRun cfg env dom = true) (hother : dom ≠ candPc) :
    sustainCount cfg env dom candPc candCnt = 1#8 := by
  rw [sustainCount, if_pos hrun, if_neg hother]

theorem sustainCount_broken (hrun : sustainRun cfg env dom = false) :
    sustainCount cfg env dom candPc candCnt = 0#8 := by
  rw [sustainCount, hrun]; rfl

end

/-! ### Note attribution, branch by branch (R557, R559) -/

/-- The note rule writes `note` and `nstr` alone. -/
theorem attributeNote_frame (cfg : DspConfig) (onset : Bool) (dom pstr : Byte) (h : DspHistory) :
    ∃ note nstr, attributeNote cfg onset dom pstr h = { h with note := note, nstr := nstr } := by
  unfold attributeNote
  split
  · split
    · exact ⟨dom, pstr, rfl⟩
    · exact ⟨pitchNone, 0#8, rfl⟩
  · split
    · split
      · exact ⟨dom, pstr, rfl⟩
      · exact ⟨h.note, h.nstr, rfl⟩
    · split
      · exact ⟨h.susPc, pstr, rfl⟩
      · exact ⟨pitchNone, 0#8, rfl⟩

section
variable {cfg : DspConfig} {dom pstr : Byte} {h : DspHistory}

theorem attributeNote_onset_confident (hconf : isConfident cfg dom pstr = true) :
    attributeNote cfg true dom pstr h = { h with note := dom, nstr := pstr } := by
  simp [attributeNote, hconf]

theorem attributeNote_onset_unsure (hconf : isConfident cfg dom pstr = false) :
    attributeNote cfg true dom pstr h = { h with note := 255#8, nstr := 0#8 } := by
  simp [attributeNote, hconf, pitchNone]

theorem attributeNote_window_late (hwin : h.sinceOnset.toNat ≤ cfg.postWin.toNat) (hnone : h.note = 255#8)
    (hconf : isConfident cfg dom pstr = true) :
    attributeNote cfg false dom pstr h = { h with note := dom, nstr := pstr } := by
  simp [attributeNote, hwin, hnone, hconf, pitchNone]

theorem attributeNote_window_keep (hwin : h.sinceOnset.toNat ≤ cfg.postWin.toNat)
    (hkeep : h.note ≠ 255#8 ∨ isConfident cfg dom pstr = false) : attributeNote cfg false dom pstr h = h := by
  have hnot : ¬ (h.note = pitchNone ∧ isConfident cfg dom pstr = true) := by
    rintro ⟨hnone, hconf⟩
    rcases hkeep with hnote | hunsure
    · exact hnote hnone
    · exact Bool.eq_false_iff.mp hunsure hconf
  simp [attributeNote, hwin, hnot]

theorem attributeNote_sustained (hwin : ¬ h.sinceOnset.toNat ≤ cfg.postWin.toNat) (hsus : h.susActive = true) :
    attributeNote cfg false dom pstr h = { h with note := h.susPc, nstr := pstr } := by
  simp [attributeNote, hwin, hsus]

theorem attributeNote_over (hwin : ¬ h.sinceOnset.toNat ≤ cfg.postWin.toNat) (hsus : h.susActive = false) :
    attributeNote cfg false dom pstr h = { h with note := 255#8, nstr := 0#8 } := by
  simp [attributeNote, hwin, hsus, pitchNone]

end

/-! ### The history after a tick, rule by rule -/

theorem onsetStep_eq (onset : Bool) (h : DspHistory) :
    onsetStep onset h = { h with sinceOnset := if onset then 0#16 else satInc16 h.sinceOnset } := rfl

/-- The stage in the order of R552 to R559. -/
theorem vocalStage_eq (cfg : DspConfig) (m : Nat → F32) (dom pstr : Byte) (h : DspHistory) :
    vocalStage cfg m dom pstr h
      = (attributeNote cfg (onsetAt cfg h (envelopeStep cfg m h)) dom pstr
          (sustainStep cfg dom (onsetStep (onsetAt cfg h (envelopeStep cfg m h)) (envelopeStep cfg m h))),
        onsetAt cfg h (envelopeStep cfg m h)) := by
  unfold vocalStage sustainStep
  rfl

/-- The history after the envelope, onset and sustain rules, which the note rule starts from (R552 to R558). -/
def State.tickSustained (s : State) : DspHistory :=
  sustainStep s.cfg s.tickPitch.1 (onsetStep s.tickVocal.2 (envelopeStep s.cfg s.mag s.dsp))

theorem tickVocal_eq (s : State) :
    s.tickVocal.1 = attributeNote s.cfg s.tickVocal.2 s.tickPitch.1 s.tickPitch.2 s.tickSustained := by
  rw [State.tickSustained, State.tickVocal, vocalStage_eq]

section
variable (log1p : F32 → F32) (s : State)

/-- The note rule and the other stages leave what the rules before it wrote. -/
theorem tickHistory_eq_sustained : ∃ bandSm chSm note nstr vis gavg, s.tickHistory log1p
    = { s.tickSustained with
        bandSm := bandSm, chSm := chSm, note := note, nstr := nstr, vis := vis, gavg := gavg } := by
  obtain ⟨note, nstr, hframe⟩ := attributeNote_frame s.cfg s.tickVocal.2 s.tickPitch.1 s.tickPitch.2 s.tickSustained
  exact ⟨_, _, note, nstr, _, _, by rw [State.tickHistory, tickVocal_eq, hframe]⟩

theorem tickHistory_env : (s.tickHistory log1p).env = (envelopeStep s.cfg s.mag s.dsp).env := by
  obtain ⟨_, _, _, _, _, _, heq⟩ := tickHistory_eq_sustained log1p s
  rw [heq, State.tickSustained, sustainStep_eq, onsetStep_eq]

/-- R552. -/
theorem tickHistory_floor :
    (s.tickHistory log1p).floorSeeded = true
    ∧ (s.tickHistory log1p).nfloor = nextFloor s.cfg s.dsp (rawEnvelope s.cfg s.mag) := by
  obtain ⟨_, _, _, _, _, _, heq⟩ := tickHistory_eq_sustained log1p s
  rw [heq, State.tickSustained, sustainStep_eq, onsetStep_eq, envelopeStep]
  exact ⟨rfl, rfl⟩

/-- R556: `since_onset` after the tick. -/
theorem tickHistory_sinceOnset : (s.tickHistory log1p).sinceOnset
    = if s.tickVocal.2 then 0#16 else satInc16 s.dsp.sinceOnset := by
  obtain ⟨_, _, _, _, _, _, heq⟩ := tickHistory_eq_sustained log1p s
  rw [heq, State.tickSustained, sustainStep_eq, onsetStep_eq, envelopeStep]

/-- R556: the flag, from the new envelope and its rise. -/
theorem tickVocal_onset : s.tickVocal.2 = isOnset s.cfg (s.tickHistory log1p).env
    (fsub (s.tickHistory log1p).env s.dsp.env) (satInc16 s.dsp.sinceOnset) := by
  rw [tickHistory_env, State.tickVocal, vocalStage_eq, onsetAt]

/-- R558: the candidate run. -/
theorem tickHistory_candidate :
    (s.tickHistory log1p).candPc
      = (if sustainRun s.cfg (s.tickHistory log1p).env s.tickPitch.1 then s.tickPitch.1 else pitchNone)
    ∧ (s.tickHistory log1p).candCnt
      = sustainCount s.cfg (s.tickHistory log1p).env s.tickPitch.1 s.dsp.candPc s.dsp.candCnt := by
  obtain ⟨_, _, _, _, _, _, heq⟩ := tickHistory_eq_sustained log1p s
  rw [heq, State.tickSustained, sustainStep_eq, onsetStep_eq, envelopeStep]
  constructor <;> dsimp only

/-- R558: exit, then entry by the new count. -/
theorem tickHistory_sustain :
    (s.tickHistory log1p).susActive = ((s.dsp.susActive && !flt (s.tickHistory log1p).env s.cfg.tun.susRelease)
      || decide (s.cfg.susN ≤ (s.tickHistory log1p).candCnt))
    ∧ (s.tickHistory log1p).susPc
      = (if s.cfg.susN ≤ (s.tickHistory log1p).candCnt then (s.tickHistory log1p).candPc else s.dsp.susPc) := by
  obtain ⟨_, _, _, _, _, _, heq⟩ := tickHistory_eq_sustained log1p s
  rw [heq, State.tickSustained, sustainStep_eq, onsetStep_eq, envelopeStep]
  constructor <;> dsimp only

/-- R559 starts from the note of the last tick, and from what R556 and R558 left. -/
theorem tickHistory_note : ∃ u,
    (s.tickHistory log1p).note = (attributeNote s.cfg s.tickVocal.2 s.tickPitch.1 s.tickPitch.2 u).note
    ∧ (s.tickHistory log1p).nstr = (attributeNote s.cfg s.tickVocal.2 s.tickPitch.1 s.tickPitch.2 u).nstr
    ∧ u.note = s.dsp.note ∧ u.nstr = s.dsp.nstr
    ∧ u.sinceOnset = (s.tickHistory log1p).sinceOnset
    ∧ u.susActive = (s.tickHistory log1p).susActive ∧ u.susPc = (s.tickHistory log1p).susPc := by
  refine ⟨s.tickSustained, by rw [← tickVocal_eq, State.tickHistory], by rw [← tickVocal_eq, State.tickHistory], ?_⟩
  obtain ⟨_, _, _, _, _, _, heq⟩ := tickHistory_eq_sustained log1p s
  rw [heq, State.tickSustained, sustainStep_eq, onsetStep_eq, envelopeStep]
  refine ⟨?_, ?_, ?_, ?_, ?_⟩ <;> dsimp only

end

/-! ### Where the FEATURE payload shows it (R320) -/

/-- Behind the band energies stand the five vocal bytes. -/
theorem featFields_getD_vocal (h : DspHistory) (onset : Bool) (chroma : Vector Byte 12) (dom pstr : Byte) {k : Nat}
    (hk : k < 5) :
    (featFields h onset chroma dom pstr).getD (48 + k) 0#8
      = [q8 h.env, boolByte onset, h.note, h.nstr, boolByte (lockFlag h)].getD k 0#8 := by
  have hbands : (h.bandSm.toList.flatMap bytesOfWord).length = 48 := by
    rw [List.length_flatMap]
    simp [bytesOfWord]
  unfold featFields
  rw [List.append_assoc, List.append_assoc, List.getD_append_right _ _ _ _ (by omega), hbands, Nat.add_sub_cancel_left,
    List.getD_append _ _ _ _ (by simpa using hk)]

theorem boolByte_eq_one {b : Bool} : boolByte b = 0x01#8 ↔ b = true := by cases b <;> decide

theorem boolByte_eq_zero {b : Bool} : boolByte b = 0x00#8 ↔ b = false := by cases b <;> decide

/-- R560 as a choice on the note. -/
theorem boolByte_lockFlag (h : DspHistory) : boolByte (lockFlag h) = if h.note = 255#8 then 0x00#8 else 0x01#8 := by
  by_cases hnone : h.note = 255#8 <;> simp [boolByte, lockFlag, pitchNone, hnone]

/-- In `t`, the outcome of the tick of `s`: the new history, the pitch and the vocal bytes of the FEATURE image. -/
structure VocalTick (s t : State) : Prop where
  history : t.dsp = s.tickHistory Config.num.fn
  dom : memRead t.mem 0x641 = s.tickPitch.1
  strength : memRead t.mem 0x642 = s.tickPitch.2
  envelope : memRead t.mem 0x630 = q8 t.dsp.env
  onset : memRead t.mem 0x631 = boolByte s.tickVocal.2
  note : memRead t.mem 0x632 = t.dsp.note
  noteStrength : memRead t.mem 0x633 = t.dsp.nstr
  lock : memRead t.mem 0x634 = boolByte (lockFlag t.dsp)
  sustain : memRead t.mem 0x643 = boolByte t.dsp.susActive

theorem execAnalyze_vocalTick {s : State} (hs : s.AnalyzeLegal) :
    ∃ t, exec .analyze s = .next t ∧ VocalTick s t := by
  obtain ⟨t, hexec, -, hdsp, hmem, -⟩ := execAnalyze_legal s hs
  have hread : ∀ k < 68, memRead t.mem (0x600 + k) = (s.tickFeat Config.num.fn).getD k 0#8 := fun k hk => by
    rw [hmem, memRead_feat _ _ _ (tickFeat_length _ s) k hk]
  have hvocal : ∀ k < 5, memRead t.mem (0x600 + (48 + k))
      = [q8 t.dsp.env, boolByte s.tickVocal.2, t.dsp.note, t.dsp.nstr, boolByte (lockFlag t.dsp)].getD k 0#8 :=
    fun k hk => by
      rw [hread _ (by omega), hdsp]
      exact featFields_getD_vocal _ _ _ _ _ hk
  obtain ⟨hdom, hstr⟩ := tickFeat_pitch Config.num.fn s
  refine ⟨t, hexec, hdsp, (hread 65 (by omega)).trans hdom, (hread 66 (by omega)).trans hstr, hvocal 0 (by omega),
    hvocal 1 (by omega), hvocal 2 (by omega), hvocal 3 (by omega), hvocal 4 (by omega), ?_⟩
  rw [hdsp]
  exact (hread 67 (by omega)).trans (featFields_getD_chroma _ _ _ _ _ 14)

/-! ### The obligations -/

/-- Settles O25: the floor, the gate behind it and the smoothing, each by its own rule. -/
theorem analyzeEnvelope : Obligations.AnalyzeEnvelope := by
  unfold Obligations.AnalyzeEnvelope
  intro s hs
  obtain ⟨t, hexec, htick⟩ := execAnalyze_vocalTick hs
  obtain ⟨-, -, -, hvoc, -⟩ := hs
  obtain ⟨hseeded, hfloor⟩ := tickHistory_floor Config.num.fn s
  have henv := tickHistory_env Config.num.fn s
  rw [← htick.history, rawEnvelope_eq hvoc] at hfloor
  rw [← htick.history] at hseeded henv
  refine ⟨t, hexec, ?_⟩
  intro rawv gated
  have hsmooth : t.dsp.env = nextEnv s.cfg s.dsp.env gated := by
    rw [henv, envelopeStep, rawEnvelope_eq hvoc, ← hfloor, gateEnvelope]
  exact ⟨hseeded, fun hfirst => hfloor.trans (nextFloor_unseeded hfirst),
    fun hlater => hfloor.trans (nextFloor_seeded hlater), fun hrise => hsmooth.trans (nextEnv_attack hrise),
    fun hfall => hsmooth.trans (nextEnv_release hfall), htick.envelope⟩

/-- Settles O26: the flag is the test on the counted-up `since_onset`, and no count below REFRACT passes it. -/
theorem analyzeOnset : Obligations.AnalyzeOnset := by
  unfold Obligations.AnalyzeOnset
  intro s hs
  obtain ⟨t, hexec, htick⟩ := execAnalyze_vocalTick hs
  refine ⟨t, hexec, ?_⟩
  intro since onset
  have hflag : s.tickVocal.2 = onset := by
    rw [tickVocal_onset Config.num.fn, ← htick.history]
    exact isOnset_satInc16 _ _ _ _
  have hsince : t.dsp.sinceOnset = if onset then 0#16 else satInc16 s.dsp.sinceOnset := by
    rw [htick.history, tickHistory_sinceOnset, hflag]
  have hbyte : memRead t.mem 0x631 = boolByte onset := by rw [htick.onset, hflag]
  have hquiet : onset = false → t.dsp.sinceOnset.toNat = since ∧ memRead t.mem 0x631 = 0x00#8 := by
    intro hno
    rw [hsince, hbyte, hno]
    exact ⟨satInc16_toNat _, rfl⟩
  refine ⟨fun hyes => ?_, hquiet, fun hearly => ?_⟩
  · rw [hsince, hbyte, hyes]
    exact ⟨rfl, rfl⟩
  · have hrefract := s.cfg.refract.isLt
    have hcount : since = s.dsp.sinceOnset.toNat + 1 := Nat.min_eq_left (by omega)
    have hno : onset = false := by
      have hbelow : ¬ s.cfg.refract.toNat ≤ since := by omega
      simp only [onset, decide_eq_false hbelow, Bool.and_false]
    obtain ⟨hkept, hzero⟩ := hquiet hno
    exact ⟨hzero, hkept.trans hcount⟩

/-- Settles O27: the run decides the candidate, the candidate's count decides entry, and exit shows only without entry. -/
theorem analyzeSustain : Obligations.AnalyzeSustain := by
  unfold Obligations.AnalyzeSustain
  intro s hs
  obtain ⟨t, hexec, htick⟩ := execAnalyze_vocalTick hs
  refine ⟨t, hexec, ?_⟩
  intro dom run
  obtain ⟨hpc, hcnt⟩ := tickHistory_candidate Config.num.fn s
  obtain ⟨hactive, hsusPc⟩ := tickHistory_sustain Config.num.fn s
  rw [← htick.history, ← htick.dom] at hpc hcnt
  rw [← htick.history] at hactive hsusPc
  have hrun : sustainRun s.cfg t.dsp.env dom = run := rfl
  refine ⟨fun hon hsame => ?_, fun hon hother => ?_, fun hoff => ?_, fun henter => ?_, fun hbelow => ?_, htick.sustain⟩
  · rw [hpc, hcnt, sustainCount_same (hrun.trans hon) hsame, if_pos (hrun.trans hon)]
    exact ⟨rfl, satInc8_toNat _⟩
  · rw [hpc, hcnt, sustainCount_other (hrun.trans hon) hother, if_pos (hrun.trans hon)]
    exact ⟨rfl, rfl⟩
  · rw [hpc, hcnt, sustainCount_broken (hrun.trans hoff), if_neg (Bool.eq_false_iff.mp (hrun.trans hoff))]
    exact ⟨rfl, rfl⟩
  · rw [hactive, hsusPc, if_pos henter, decide_eq_true henter, Bool.or_true]
    exact ⟨rfl, rfl⟩
  · have hnot : ¬ s.cfg.susN ≤ t.dsp.candCnt := BitVec.not_le.mpr hbelow
    rw [hsusPc, hactive, if_neg hnot, decide_eq_false hnot, Bool.or_false]
    exact ⟨rfl, rfl⟩

/-- Settles O28: one branch of the note rule for each clause. -/
theorem analyzeNote : Obligations.AnalyzeNote := by
  unfold Obligations.AnalyzeNote
  intro s hs
  obtain ⟨t, hexec, htick⟩ := execAnalyze_vocalTick hs
  obtain ⟨u, hnote, hnstr, hprev, hprevStr, hsince, hactive, hsusPc⟩ := tickHistory_note Config.num.fn s
  rw [← htick.history, ← htick.dom, ← htick.strength] at hnote hnstr
  rw [← htick.history] at hsince hactive hsusPc
  refine ⟨t, hexec, ?_⟩
  intro dom pstr confident onset window
  have hset : onset = 0x01#8 → s.tickVocal.2 = true := fun h => boolByte_eq_one.mp (htick.onset.symm.trans h)
  have hclear : onset = 0x00#8 → s.tickVocal.2 = false := fun h => boolByte_eq_zero.mp (htick.onset.symm.trans h)
  have hin : window = true → u.sinceOnset.toNat ≤ s.cfg.postWin.toNat := fun h => by
    rw [hsince]
    exact of_decide_eq_true h
  have hout : window = false → ¬ u.sinceOnset.toNat ≤ s.cfg.postWin.toNat := fun h => by
    rw [hsince]
    exact of_decide_eq_false h
  rw [hnote, hnstr]
  refine ⟨fun hon hconf => ?_, fun hon hconf => ?_, fun hoff hwin hnone hconf => ?_, fun hoff hwin hkeep => ?_,
    fun hoff hwin hsus => ?_, fun hoff hwin hsus => ?_, ?_⟩
  · rw [hset hon, attributeNote_onset_confident hconf]
    exact ⟨rfl, rfl⟩
  · rw [hset hon, attributeNote_onset_unsure hconf]
    exact ⟨rfl, rfl⟩
  · rw [hclear hoff, attributeNote_window_late (hin hwin) (hprev.trans hnone) hconf]
    exact ⟨rfl, rfl⟩
  · rw [hclear hoff, attributeNote_window_keep (hin hwin) (by rwa [hprev])]
    exact ⟨hprev, hprevStr⟩
  · rw [hclear hoff, attributeNote_sustained (hout hwin) (hactive.trans hsus)]
    exact ⟨hsusPc, rfl⟩
  · rw [hclear hoff, attributeNote_over (hout hwin) (hactive.trans hsus)]
    exact ⟨rfl, rfl⟩
  · rw [← hnote, ← hnstr]
    exact ⟨htick.note, htick.noteStrength, htick.lock.trans (boolByte_lockFlag _)⟩

end Sys2Proof.Machine
end

section
/-! # The visual levels stay in `[0, 1]` (44_peak_flux_visual.md R604)

The two weights of the blend are 0.7 and 0.3 rounded, and they add up to exactly 1. A product by a value in `[0, 1]` rounds
to no more than its other factor, and a sum that is exactly at most 1 rounds to no more than 1. -/

namespace Sys2Proof.Machine

/-! ### Rounding does not pass a representable value -/

/-- What is at most a magnitude's value rounds to at most that magnitude. -/
theorem froundMag_le_of_le {m k z : Nat} (h : m ≤ magVal z * 2 ^ k) : froundMag m k false ≤ z := by
  have hround := (rounds_div_iff.mp (roundUnbounded_rounds m k)).2
  rw [froundMag_eq_min]
  refine (Nat.min_le_left _ _).trans (not_lt.mp fun hgt => ?_)
  obtain ⟨c, hc⟩ : ∃ c, c + 1 = roundUnbounded m k false := ⟨_, Nat.sub_add_cancel (by omega)⟩
  have hmid : magMid c * 2 ^ k ≤ 2 * m := (hround c hc).1
  have hvalue : magVal z ≤ magVal c := magVal_strictMono.monotone (by omega)
  have hbelow : 2 * magVal z < magMid c := by
    have := magVal_lt_succ c
    unfold magMid
    omega
  have hstrict := Nat.mul_lt_mul_of_pos_right hbelow (Nat.two_pow_pos k)
  rw [Nat.mul_assoc] at hstrict
  omega

/-- `x` is finite and its value lies between zero and `bound` units. -/
structure UnitsWithin (bound : Nat) (x : F32) : Prop where
  finite : fIsFinite x = true
  nonneg : 0 ≤ unitsOf x
  le : unitsOf x ≤ bound

/-- A rounded magnitude without a sign stays within each finite value that the exact one is within; a sign is
allowed on zero alone. -/
theorem unitsWithin_fpack {neg : Bool} {m k z : Nat} (hz : z < 0x7F800000) (h : m ≤ magVal z * 2 ^ k)
    (hneg : neg = true → m = 0) : UnitsWithin (magVal z) (fpack neg (froundMag m k false)) := by
  have hle := froundMag_le_of_le h
  have hbits : fmagBits (fpack neg (froundMag m k false)) = froundMag m k false := fmagBits_fpack (by omega)
  have hfinite : fIsFinite (fpack neg (froundMag m k false)) = true := by
    rw [fIsFinite_iff, hbits]
    omega
  have hvalue : magVal (froundMag m k false) ≤ magVal z := magVal_strictMono.monotone hle
  have hunits : unitsOf (fpack neg (froundMag m k false)) = (magVal (froundMag m k false) : Int) := by
    unfold unitsOf
    rw [fsign_fpack (by omega), fmant_eq_magVal, hbits]
    cases neg with
    | false => rfl
    | true =>
      have hzero : froundMag m k false ≤ 0 := froundMag_le_of_le (by simp [hneg rfl])
      rw [Nat.le_zero.mp hzero]
      rfl
  exact ⟨hfinite, by omega, by omega⟩

/-! ### Products and sums -/

theorem unitsOf_eq_fmant {x : F32} (h : 0 ≤ unitsOf x) : unitsOf x = fmant x := by
  unfold unitsOf at h ⊢
  split
  · next hneg =>
    rw [if_pos hneg] at h
    omega
  · rfl

theorem fmant_fone : fmant fone = 2 ^ 149 := by decide +kernel

theorem inUnit_iff_unitsWithin (x : F32) : inUnit x = true ↔ UnitsWithin (fmant fone) x := by
  have hone : unitsOf 0x3F800000#32 = fmant fone := unitsOf_of_nonneg rfl
  rw [inUnit_iff, hone]
  refine ⟨fun ⟨_, hnonneg, hle⟩ => ⟨?_, hnonneg, hle⟩, fun h => ⟨not_nan_of_finite h.finite, h.nonneg, h.le⟩⟩
  rw [unitsOf_eq_fmant hnonneg, Nat.cast_le] at hle
  have hbits : fmagBits x ≤ fmagBits fone := magVal_strictMono.le_iff_le.mp hle
  exact (fIsFinite_iff x).mpr (hbits.trans_lt (by decide))

/-- A product by a value in `[0, 1]` is at most the other factor. -/
theorem fmul_unitsWithin {c x : F32} (hc : fIsFinite c = true) (hsign : fsign c = false) (hx : inUnit x = true) :
    UnitsWithin (fmant c) (fmul c x) := by
  have hx := (inUnit_iff_unitsWithin x).mp hx
  have hunits := unitsOf_eq_fmant hx.nonneg
  have hle : fmant x ≤ 2 ^ 149 := by
    rw [← fmant_fone, ← Nat.cast_le (α := Int), ← hunits]
    exact hx.le
  rw [fmul_finite hc hx.finite, hsign, Bool.false_bne]
  refine unitsWithin_fpack ((fIsFinite_iff c).mp hc) (Nat.mul_le_mul_left _ hle) fun hneg => ?_
  rw [unitsOf, if_pos hneg] at hunits
  rw [show fmant x = 0 by omega, Nat.mul_zero]

/-- A sum within a finite value stays within it when it is rounded. -/
theorem fadd_unitsWithin {a b c : F32} {p q : Nat} (ha : UnitsWithin p a) (hb : UnitsWithin q b)
    (hc : fIsFinite c = true) (hsum : p + q ≤ fmant c) : UnitsWithin (fmant c) (fadd a b) := by
  have := ha.nonneg
  have := ha.le
  have := hb.nonneg
  have := hb.le
  rw [fadd_finite ha.finite hb.finite, faddFinite_eq]
  refine unitsWithin_fpack ((fIsFinite_iff c).mp hc) ?_ fun hneg => ?_
  · rw [Nat.pow_zero, Nat.mul_one]
    show _ ≤ fmant c
    omega
  · split at hneg
    · omega
    · have := of_decide_eq_true hneg
      omega

/-- The weights of the blend are exactly one together (R604). -/
theorem blend_weights_sum : fmant 0x3F333333#32 + fmant 0x3E99999A#32 = fmant fone := by decide +kernel

theorem visBlend_inUnit {prev tgt : F32} (hprev : inUnit prev = true) (htgt : inUnit tgt = true) :
    inUnit (visBlend prev tgt) = true := by
  have hold := fmul_unitsWithin (c := 0x3F333333#32) rfl rfl hprev
  have hnew := fmul_unitsWithin (c := 0x3E99999A#32) rfl rfl htgt
  rw [inUnit_iff_unitsWithin]
  exact fadd_unitsWithin hold hnew rfl blend_weights_sum.le

/-! ### The levels through a tick and through a cycle -/

/-- Each visual level lies in `[0, 1]`. -/
def State.VisInUnit (s : State) : Prop := ∀ i : Fin 12, inUnit s.dsp.vis[i] = true

theorem State.VisInUnit.congr {s t : State} (hs : s.VisInUnit) (h : t.dsp = s.dsp) : t.VisInUnit := by
  unfold State.VisInUnit
  rw [h]
  exact hs

theorem visInUnit_of_reset {t : State} (h : t.dsp = DspHistory.reset) : t.VisInUnit := by
  unfold State.VisInUnit
  rw [h]
  decide +kernel

theorem tickVis_active (log1p : F32 → F32) {s : State} {i : Fin 12} (hi : i.val < s.activeBands) :
    (s.tickVis log1p)[i] = visBlend s.dsp.vis[i] (visTarget log1p s.cfg s.tickRaw[i]) := by
  rw [State.tickVis, nextVis, vec12_getElem, if_pos hi]

theorem tickVis_inactive (log1p : F32 → F32) {s : State} {i : Fin 12} (hi : s.activeBands ≤ i.val) :
    (s.tickVis log1p)[i] = fzero := by
  rw [State.tickVis, nextVis, vec12_getElem, if_neg (not_lt.mpr hi)]

/-- The compressed energy is clamped and blended; an inactive band is zero. -/
theorem analyzeTick_visInUnit (log1p : F32 → F32) {s : State} (hs : s.VisInUnit) : (s.analyzeTick log1p).VisInUnit := by
  intro i
  show inUnit (s.tickVis log1p)[i] = true
  rcases Nat.lt_or_ge i.val s.activeBands with hactive | hinactive
  · rw [tickVis_active log1p hactive]
    exact visBlend_inUnit (hs i) (inUnit_fclamp01 _)
  · rw [tickVis_inactive log1p hinactive]
    decide +kernel

theorem commandEffect_visInUnit {op : Byte} {s t : State} (hs : s.VisInUnit) (h : CommandEffect op s t) : t.VisInUnit := by
  cases h with
  | records h => exact hs.congr h.dsp
  | clear h => exact visInUnit_of_reset (h.dsp.trans (clearDsp_dsp s))
  | tick _ h => exact (analyzeTick_visInUnit _ hs).congr h.dsp

/-- A host write keeps the history or resets it (R104, R124). -/
theorem OwnedWrite.dsp {s t : State} (h : OwnedWrite s t) : t.dsp = s.dsp ∨ t.dsp = DspHistory.reset := by
  cases h with
  | ctrl w =>
    by_cases hn : s.ctrl.nbands = (ctrlOfWord s.ctrl w).nbands
    · exact .inl (writeCtrl_keeps_history hn).1
    · exact .inr (writeCtrl_regroups hn).1
  | bandRange i r =>
    by_cases hr : s.cfg.bandRange[i] = r
    · exact .inl (writeBandRange_keeps_history hr).1
    · exact .inr (writeBandRange_regroups hr).1
  | txCmd | config | word => exact .inl rfl

/-- Behind the command, only the host access of a cycle reaches the history. -/
theorem RestEffect.dsp {s t : State} (h : RestEffect s t) : t.dsp = s.dsp ∨ t.dsp = DspHistory.reset := by
  cases h with
  | status _ h => rw [h]; exact .inl rfl
  | rx _ h => rw [h.keeps_data.1]; exact .inl rfl
  | owned _ _ h => exact h.dsp
  | pop | issue => exact .inl rfl

theorem restEffect_visInUnit {s t : State} (hs : s.VisInUnit) (h : RestEffect s t) : t.VisInUnit :=
  h.dsp.elim hs.congr visInUnit_of_reset

/-- Settles O33: a tick blends values in `[0, 1]`; whatever else writes the history resets it. -/
theorem visualLevelsStayUnit : Obligations.VisualLevelsStayUnit := by
  unfold Obligations.VisualLevelsStayUnit
  intro s t hs h
  have hkept : t.VisInUnit := by
    refine step_keeps h (fun _ => visInUnit_of_reset rfl) hs (fun p u _ _ heff => ?_)
      (fun u v hu heff => restEffect_visInUnit hu heff)
    exact commandEffect_visInUnit (s := s.startCycle) hs heff
  exact hkept

end Sys2Proof.Machine
end

section
/-! # The peak, the visual levels and the aggregates of a tick (44_peak_flux_visual.md R601 to R609) -/

namespace Sys2Proof.Machine

/-! ### The AUX image after a tick (R322) -/

section
variable (log1p : F32 → F32) (nBins : Nat) (cfg : DspConfig) (n : Nat) (m : Nat → F32) (vis rise : Vector F32 12)
  (gavg : F32)

theorem auxFields_getD_level (i : Fin 12) :
    (auxFields log1p nBins cfg n m vis rise gavg).getD i.val 0#8 = q8 vis[i] := by
  unfold auxFields
  simp only [List.append_assoc]
  rw [List.getD_append _ _ _ _ (by simp), ← vec12_getElem (fun i => q8 vis[i]) i]
  simp

theorem auxFields_getD_rise (i : Fin 12) :
    (auxFields log1p nBins cfg n m vis rise gavg).getD (12 + i.val) 0#8 = visDelta cfg rise[i] := by
  unfold auxFields
  simp only [List.append_assoc]
  rw [List.getD_append_right _ _ _ _ (by simp), List.getD_append _ _ _ _ (by simp),
    ← vec12_getElem (fun i => visDelta cfg rise[i]) i]
  simp

/-- Behind the levels and the rises stand the aggregates. -/
theorem auxFields_getD_aggregate (k : Nat) :
    (auxFields log1p nBins cfg n m vis rise gavg).getD (24 + k) 0#8
      = ([q8 (globalLevel n vis), q8 (subsetMean cfg.bassMask n vis), q8 (subsetMean cfg.midMask n vis),
          q8 (subsetMean cfg.trebMask n vis)]
        ++ bytesOfHalf (peakFreq nBins m cfg.pkRange cfg.tun.binHz (peakBin m cfg.pkRange).2)
        ++ [peakMag log1p cfg (peakBin m cfg.pkRange).1, fluxByte cfg n rise,
          boolByte (peakDetected cfg gavg (globalLevel n vis)), BitVec.ofNat 8 n, 0#8, 0#8]).getD k 0#8 := by
  unfold auxFields
  simp only [List.append_assoc]
  rw [List.getD_append_right _ _ _ _ (by simp; omega), List.getD_append_right _ _ _ _ (by simp; omega)]
  exact congrArg (List.getD _ · 0#8) (by simp; omega)

end

/-- In `t`, the outcome of the tick of `s`: the new visual history and the bytes of the AUX image. -/
structure AuxTick (s t : State) : Prop where
  vis : t.dsp.vis = s.tickVis Config.num.fn
  average : t.dsp.gavg = nextGavg s.cfg s.dsp.gavg (globalLevel s.activeBands t.dsp.vis)
  level (i : Fin 12) : memRead t.mem (0x680 + i.val) = q8 t.dsp.vis[i]
  rise (i : Fin 12) :
    memRead t.mem (0x68C + i.val) = visDelta s.cfg (visRise s.activeBands t.dsp.vis s.dsp.vis)[i]
  global : memRead t.mem 0x698 = q8 (globalLevel s.activeBands t.dsp.vis)
  bass : memRead t.mem 0x699 = q8 (subsetMean s.cfg.bassMask s.activeBands t.dsp.vis)
  mid : memRead t.mem 0x69A = q8 (subsetMean s.cfg.midMask s.activeBands t.dsp.vis)
  treble : memRead t.mem 0x69B = q8 (subsetMean s.cfg.trebMask s.activeBands t.dsp.vis)
  frequency : memRead t.mem 0x69D ++ memRead t.mem 0x69C
    = peakFreq s.param.nBins s.mag s.cfg.pkRange s.cfg.tun.binHz (peakBin s.mag s.cfg.pkRange).2
  magnitude : memRead t.mem 0x69E = peakMag Config.num.fn s.cfg (peakBin s.mag s.cfg.pkRange).1
  flux : memRead t.mem 0x69F = fluxByte s.cfg s.activeBands (visRise s.activeBands t.dsp.vis s.dsp.vis)
  detected : memRead t.mem 0x6A0
    = boolByte (peakDetected s.cfg s.dsp.gavg (globalLevel s.activeBands t.dsp.vis))
  count : memRead t.mem 0x6A1 = BitVec.ofNat 8 s.activeBands
  reserved : memRead t.mem 0x6A2 = 0#8 ∧ memRead t.mem 0x6A3 = 0#8

theorem execAnalyze_auxTick {s : State} (hs : s.AnalyzeLegal) : ∃ t, exec .analyze s = .next t ∧ AuxTick s t := by
  obtain ⟨t, hexec, -, hdsp, hmem, -⟩ := execAnalyze_legal s hs
  have hvis : t.dsp.vis = s.tickVis Config.num.fn := by rw [hdsp]; rfl
  have hread : ∀ k < 36, memRead t.mem (0x680 + k) = (s.tickAux Config.num.fn).getD k 0#8 := fun k hk => by
    rw [hmem, memRead_aux _ _ _ (tickAux_length _ s) k hk]
  have haggregate := fun k (hk : k < 12) =>
    (hread (24 + k) (by omega)).trans (auxFields_getD_aggregate _ _ _ _ _ _ _ _ k)
  rw [← hvis] at haggregate
  refine ⟨t, hexec, ?_⟩
  exact {
    vis := hvis
    average := by rw [hvis, hdsp]; rfl
    level := fun i => by rw [hread _ (by omega), hvis]; exact auxFields_getD_level _ _ _ _ _ _ _ _ i
    rise := fun i => by
      rw [show 0x68C + i.val = 0x680 + (12 + i.val) by omega, hread _ (by omega), hvis]
      exact auxFields_getD_rise _ _ _ _ _ _ _ _ i
    global := haggregate 0 (by omega)
    bass := haggregate 1 (by omega)
    mid := haggregate 2 (by omega)
    treble := haggregate 3 (by omega)
    frequency := by
      rw [show memRead t.mem 0x69D = _ from haggregate 5 (by omega),
        show memRead t.mem 0x69C = _ from haggregate 4 (by omega)]
      exact crc_halves _
    magnitude := haggregate 6 (by omega)
    flux := haggregate 7 (by omega)
    detected := haggregate 8 (by omega)
    count := haggregate 9 (by omega)
    reserved := ⟨haggregate 10 (by omega), haggregate 11 (by omega)⟩ }

/-! ### The visual levels and the rises (R604, R605) -/

theorem visRise_active {n : Nat} {vis prev : Vector F32 12} {i : Fin 12} (hi : i.val < n) :
    (visRise n vis prev)[i] = fpos (fsub vis[i] prev[i]) := by
  rw [visRise, vec12_getElem, if_pos hi]

theorem visRise_inactive {n : Nat} {vis prev : Vector F32 12} {i : Fin 12} (hi : n ≤ i.val) :
    (visRise n vis prev)[i] = fzero := by
  rw [visRise, vec12_getElem, if_neg (not_lt.mpr hi)]

/-- Zero times any value is a zero or NaN (R18). -/
theorem fmul_zero_cases (y : F32) :
    fmul fzero y = 0x00000000#32 ∨ fmul fzero y = 0x80000000#32 ∨ fmul fzero y = 0x7FC00000#32 := by
  unfold fmul
  split
  · exact .inr (.inr rfl)
  · split
    · exact .inr (.inr rfl)
    · rw [show fmant fzero * fmant y = 0 from Nat.zero_mul _, show froundMag 0 149 false = 0 by decide, fpack_zero]
      split <;> simp

/-- No gain lifts a rise of zero (R605). -/
theorem visDelta_zero (cfg : DspConfig) : visDelta cfg fzero = 0x00#8 := by
  unfold visDelta
  rcases fmul_zero_cases cfg.tun.deltaGain with h | h | h <;> rw [h] <;> decide +kernel

/-- Settles O30: an active band by the blend and its rise, an inactive one by its zero; the image shows both. -/
theorem analyzeVisualLevels : Obligations.AnalyzeVisualLevels := by
  unfold Obligations.AnalyzeVisualLevels
  intro s hs
  obtain ⟨t, hexec, htick⟩ := execAnalyze_auxTick hs
  obtain ⟨-, hbands, -⟩ := hs
  refine ⟨t, hexec, fun i => ⟨fun hactive => ⟨?_, htick.level i, ?_⟩, fun hinactive => ?_⟩⟩
  · rw [htick.vis, tickVis_active _ hactive, tickRaw_active hactive (hbands i hactive)]
    rfl
  · rw [htick.rise, visRise_active (show i.val < s.activeBands from hactive)]
    rfl
  · have hzero : t.dsp.vis[i] = fzero := by rw [htick.vis, tickVis_inactive _ hinactive]
    refine ⟨hzero, ?_, ?_⟩
    · rw [htick.level, hzero]
      exact q8_zero rfl
    · rw [htick.rise, visRise_inactive (show s.activeBands ≤ i.val from hinactive), visDelta_zero]

/-! ### The aggregates over the active bands (R606 to R608) -/

theorem fsum_zero (xs : List F32) : fsum fzero xs = sumOf xs := fsum_eq fzero xs

theorem range_eq_filter_val : ∀ n : Fin 13,
    List.range n.val = ((List.finRange 12).filter (fun i => decide (i.val < n.val))).map (fun i => i.val) := by decide

/-- The active bands by their numbers. -/
theorem range_activeBands {s : State} (h : s.ctrl.nbands ≤ 12#4) :
    List.range s.activeBands = s.activeList.map (fun i => i.val) := by
  have hlt : s.activeBands < 13 := Nat.lt_succ_of_le h
  exact range_eq_filter_val ⟨s.activeBands, hlt⟩

theorem mem_activeList {s : State} {i : Fin 12} : i ∈ s.activeList ↔ i.val < s.activeBands := by
  simp [State.activeList, State.activeBands]

theorem globalLevel_eq (s : State) (vis : Vector F32 12) : globalLevel s.activeBands vis
    = fsqrt (fdiv (sumOf (s.activeList.map (fun i => fmul vis[i] vis[i]))) (f32OfNat s.activeBands)) := by
  rw [globalLevel, take_activeBands, List.map_map, fsum_zero]
  rfl

theorem maskedBands_eq {s : State} (h : s.ctrl.nbands ≤ 12#4) (t : State) (mask : BitVec 12) :
    maskedBands mask s.activeBands t.dsp.vis = s.levelsIn t mask := by
  rw [maskedBands, range_activeBands h, List.filter_map, List.map_map, State.levelsIn]
  exact List.map_congr_left fun i _ => by simp

theorem subsetMean_eq {s : State} (h : s.ctrl.nbands ≤ 12#4) (t : State) (mask : BitVec 12) :
    subsetMean mask s.activeBands t.dsp.vis = meanOf (s.levelsIn t mask) := by
  rw [subsetMean, maskedBands_eq h]
  cases s.levelsIn t mask with
  | nil => rfl
  | cons v vs => rw [meanOf, if_neg (by simp), List.length_cons, ← fsum_zero]

/-- The rises the flux adds are those of the active bands (R607). -/
theorem take_visRise (s t : State) :
    (visRise s.activeBands t.dsp.vis s.dsp.vis).toList.take s.activeBands = s.activeList.map (riseOf s t) := by
  rw [take_activeBands]
  exact List.map_congr_left fun i hi => visRise_active (mem_activeList.mp hi)

theorem fluxByte_eq (s t : State) :
    fluxByte s.cfg s.activeBands (visRise s.activeBands t.dsp.vis s.dsp.vis)
      = q8 (fclamp01 (fmul s.cfg.tun.fluxScale (sumOf (s.activeList.map (riseOf s t))))) := by
  rw [fluxByte, take_visRise, fsum_zero]

/-- Settles O31: each aggregate of the model is the one over the list of the active bands. -/
theorem analyzeAggregates : Obligations.AnalyzeAggregates := by
  unfold Obligations.AnalyzeAggregates
  intro s hs
  obtain ⟨t, hexec, htick⟩ := execAnalyze_auxTick hs
  obtain ⟨hnbands, -⟩ := hs
  refine ⟨t, hexec, ?_⟩
  intro glob
  have hglob : globalLevel s.activeBands t.dsp.vis = glob := globalLevel_eq s t.dsp.vis
  have hmean := subsetMean_eq hnbands t
  refine ⟨?_, ?_, ?_, ?_, ?_, ?_, ?_, htick.count, htick.reserved⟩
  · rw [htick.global, hglob]
  · rw [htick.bass, hmean]
  · rw [htick.mid, hmean]
  · rw [htick.treble, hmean]
  · rw [htick.flux, fluxByte_eq]
  · rw [htick.detected, hglob, boolByte, peakDetected]
  · rw [htick.average, hglob, nextGavg, smooth, fone]

/-! ### The peak bin (R601) -/

/-- The peak scan is the search for the first maximum over the range's bins, counted from its first one. -/
theorem peakScan_eq_firstMax (m : Nat → F32) (lo : Nat) (mx : F32) (am p n : Nat) :
    peakScan m mx (lo + am) (lo + p) n
      = ((firstMax mx am p ((List.range' p n).map (fun i => m (lo + i)))).1,
         lo + (firstMax mx am p ((List.range' p n).map (fun i => m (lo + i)))).2) := by
  induction n generalizing mx am p with
  | zero => rfl
  | succ n ih =>
    rw [peakScan, List.range'_succ, List.map_cons, firstMax]
    split
    · exact ih _ p (p + 1)
    · exact ih mx am (p + 1)

theorem peakBin_isFirstMax (m : Nat → F32) (r : BinRange) :
    ∃ d, peakBin m r = (m (r.lo.toNat + d), r.lo.toNat + d)
      ∧ IsFirstMax (fun i => m (r.lo.toNat + i)) (1 + (r.hi.toNat - r.lo.toNat)) d := by
  obtain ⟨d, hsearch, hmax⟩ :=
    firstMax_isFirstMax (IsFirstMax.start (fun i => m (r.lo.toNat + i))) (r.hi.toNat - r.lo.toNat)
  refine ⟨d, ?_, hmax⟩
  have hscan := peakScan_eq_firstMax m r.lo.toNat (m r.lo.toNat) 0 1 (r.hi.toNat - r.lo.toNat)
  rw [Nat.add_zero] at hsearch hscan
  rw [peakBin, hscan, hsearch]

theorem mag_not_nan (s : State) (b : Nat) : fIsNaN (s.mag b) = false :=
  not_nan_of_finite (sanitize_finite_nonneg _).1

/-- `k` is the peak bin of R601: the first maximum of the magnitudes over a legal range. -/
structure IsPeakBin (s : State) (r : BinRange) (k : Nat) : Prop where
  mem : k ∈ binsOf r
  max : ∀ b ∈ binsOf r, fgt (s.magnitude b) (s.magnitude k) = false
  first : ∀ b ∈ binsOf r, b < k → fgt (s.magnitude k) (s.magnitude b) = true

theorem peakBin_isPeakBin {s : State} {r : BinRange} (hr : RangeLegal s.param.nBins r) :
    ∃ k, peakBin s.mag r = (s.magnitude k, k) ∧ IsPeakBin s r k := by
  obtain ⟨d, hpeak, hmax⟩ := peakBin_isFirstMax s.mag r
  have hle : r.lo.toNat ≤ r.hi.toNat := hr.1
  have hd := hmax.lt
  have hmem : r.lo.toNat + d ∈ binsOf r := mem_binsOf.mpr ⟨by omega, by omega⟩
  have hk := mag_of_mem_binsOf hr hmem
  refine ⟨r.lo.toNat + d, by rw [hpeak, hk], hmem, fun b hb => ?_, fun b hb hlt => ?_⟩
  all_goals
    obtain ⟨hlo, hhi⟩ := mem_binsOf.mp hb
    obtain ⟨i, rfl⟩ := Nat.exists_eq_add_of_le hlo
    rw [← mag_of_mem_binsOf hr hb, ← hk]
  · exact hmax.max (mag_not_nan s _) i (by omega)
  · exact hmax.first (mag_not_nan s _) i (by omega) (mag_not_nan s _)

/-! ### The frequency and the magnitude of the peak (R602, R603) -/

/-- The refinement reads bins of the range alone, where the sanitised bins are the magnitudes. -/
theorem subBinOffset_eq {s : State} {r : BinRange} (hr : RangeLegal s.param.nBins r) {k : Nat} (hk : k ∈ binsOf r) :
    subBinOffset s.mag r k = subBinOffset s.magnitude r k := by
  obtain ⟨hlo, hhi⟩ := mem_binsOf.mp hk
  unfold subBinOffset
  by_cases hinner : k ≠ r.lo.toNat ∧ k ≠ r.hi.toNat
  · obtain ⟨hfirst, hlast⟩ := hinner
    have hleft : s.mag (k - 1) = s.magnitude (k - 1) := mag_of_mem_binsOf hr (mem_binsOf.mpr ⟨by omega, by omega⟩)
    have hright : s.mag (k + 1) = s.magnitude (k + 1) := mag_of_mem_binsOf hr (mem_binsOf.mpr ⟨by omega, by omega⟩)
    have hden : parabolaDen s.mag k = parabolaDen s.magnitude k := by
      rw [parabolaDen, hleft, mag_of_mem_binsOf hr hk, hright, parabolaDen]
    rw [hden, hleft, hright]
  · rw [if_neg fun h => hinner ⟨h.1, h.2.1⟩, if_neg fun h => hinner ⟨h.1, h.2.1⟩]

/-- Settles O29: the scan finds the first maximum, and the image shows the refined frequency and the magnitude there. -/
theorem analyzePeak : Obligations.AnalyzePeak := by
  unfold Obligations.AnalyzePeak
  intro s hs
  obtain ⟨t, hexec, htick⟩ := execAnalyze_auxTick hs
  obtain ⟨-, -, -, -, hrange, -⟩ := hs
  obtain ⟨k, hpeak, hk⟩ := peakBin_isPeakBin hrange
  obtain ⟨hlo, hhi⟩ := mem_binsOf.mp hk.mem
  have hfreq := htick.frequency
  have hmag := htick.magnitude
  rw [hpeak] at hfreq hmag
  refine ⟨t, hexec, k, hlo, hhi, fun b hb hb' => hk.max b (mem_binsOf.mpr ⟨hb, hb'⟩),
    fun b hb hlt => hk.first b (mem_binsOf.mpr ⟨hb, by omega⟩) hlt, ?_⟩
  refine ⟨?_, hmag⟩
  rw [hfreq, peakFreq, peakHz, subBinOffset_eq hrange hk.mem]
  rfl

end Sys2Proof.Machine
end

section
/-! # The CRC of a frame (45_frame_encoder.md R650, R658) -/

namespace Sys2Proof.Machine

/-! ### A shift, a byte and a run of bytes lose nothing of the register -/

/-- The bit that comes in tells whether the polynomial was added, so a shift can be taken back. -/
theorem crcShift_injective : Function.Injective crcShift := by
  intro a b h
  have hmsb : a.msb = b.msb := by rw [← crcShift_lsb, ← crcShift_lsb, h]
  refine BitVec.eq_of_getLsbD_eq fun k hk => ?_
  by_cases htop : k = 15
  · subst htop
    exact hmsb
  · have hbit := congrArg (fun c => c.getLsbD (k + 1)) h
    simp only [crcShift_bit _ k (by omega), hmsb] at hbit
    simpa using hbit

theorem crcShifts_injective (n : Nat) : Function.Injective (crcShifts n) := by
  induction n with
  | zero => exact Function.injective_id
  | succ n ih => exact ih.comp crcShift_injective

theorem crcByte_injective_register (d : Byte) : Function.Injective (fun c => crcByte c d) := fun _ _ h =>
  (BitVec.xor_left_inj _).mp (crcShifts_injective 8 h)

theorem crcByte_injective_byte (c : BitVec 16) : Function.Injective (crcByte c) := fun a b h => by
  have hword : a ++ 0#8 = b ++ 0#8 := (BitVec.xor_right_inj _).mp (crcShifts_injective 8 h)
  have htop := congrArg (BitVec.extractLsb' 8 8) hword
  rwa [BitVec.extractLsb'_append_eq_left, BitVec.extractLsb'_append_eq_left] at htop

theorem crcFrom_injective_register (ds : List Byte) : Function.Injective (fun c => crcFrom c ds) := by
  induction ds with
  | nil => exact Function.injective_id
  | cons d ds ih => exact ih.comp (crcByte_injective_register d)

/-- Settles O18: the changed byte changes the register, and the bytes behind it keep the difference. -/
theorem crcDetectsOneByte : Obligations.CrcDetectsOneByte := by
  unfold Obligations.CrcDetectsOneByte
  intro before after a b hne h
  unfold crc16 at h
  rw [crcFrom_append, crcFrom_append] at h
  exact hne (crcByte_injective_byte _ (crcFrom_injective_register after h))

/-! ### The bit-serial form -/

/-- The register after one more bit. -/
def crcBit (c : BitVec 16) (b : Bool) : BitVec 16 :=
  if c.getLsbD 15 != b then (c <<< 1) ^^^ 0x1021#16 else c <<< 1

/-- The first `n` bits of a word, most significant first. -/
def topBits : Nat → BitVec 16 → List Bool
  | 0, _ => []
  | n + 1, w => w.msb :: topBits n (w <<< 1)

/-- A shift with a word added to the register: the word's top bit has entered, the rest of the word still waits. -/
theorem crcShift_xor (c w : BitVec 16) : crcShift (c ^^^ w) = crcBit c w.msb ^^^ (w <<< 1) := by
  have hc : c.getLsbD 15 = c.msb := rfl
  unfold crcShift crcBit
  rw [BitVec.msb_xor, BitVec.shiftLeft_xor_distrib, hc, Bool.bne_eq_xor]
  cases c.msb ^^ w.msb with
  | false => rfl
  | true =>
    show c <<< 1 ^^^ w <<< 1 ^^^ 0x1021#16 = c <<< 1 ^^^ 0x1021#16 ^^^ w <<< 1
    ac_rfl

theorem crcShifts_xor (n : Nat) (c w : BitVec 16) :
    crcShifts n (c ^^^ w) = (topBits n w).foldl crcBit c ^^^ (w <<< n) := by
  induction n generalizing c w with
  | zero => rw [BitVec.shiftLeft_zero]; rfl
  | succ n ih => rw [crcShifts_succ, crcShift_xor, ih, ← BitVec.shiftLeft_add, Nat.add_comm 1 n]; rfl

/-- The bits of a byte, bit 7 first. -/
def byteBits (d : Byte) : List Bool :=
  [d.getLsbD 7, d.getLsbD 6, d.getLsbD 5, d.getLsbD 4, d.getLsbD 3, d.getLsbD 2, d.getLsbD 1, d.getLsbD 0]

theorem topBits_byte (d : Byte) : topBits 8 (d ++ 0#8) = byteBits d := by
  simp only [topBits, byteBits, BitVec.msb_eq_getLsbD_last, BitVec.getLsbD_shiftLeft, BitVec.getLsbD_append]
  rfl

theorem crcByte_eq_foldl (c : BitVec 16) (d : Byte) : crcByte c d = (byteBits d).foldl crcBit c := by
  have hout : (d ++ 0#8) <<< 8 = 0#16 := by
    refine BitVec.eq_of_getLsbD_eq fun k hk => ?_
    rw [BitVec.getLsbD_shiftLeft, BitVec.getLsbD_append]
    by_cases hlow : k < 8
    · simp [hlow]
    · simp [show k - 8 < 8 by omega]
  rw [crcByte, crcShifts_xor, topBits_byte, hout, BitVec.xor_zero]

theorem crcFrom_eq_foldl (c : BitVec 16) (ds : List Byte) : crcFrom c ds = (ds.flatMap byteBits).foldl crcBit c := by
  induction ds generalizing c with
  | nil => rfl
  | cons d ds ih => rw [crcFrom, ih, crcByte_eq_foldl, List.flatMap_cons, List.foldl_append]

/-- Settles O17: the eight shifts of a byte are eight bits, and a CRC is its bytes in turn. -/
theorem crcIsBitSerial : Obligations.CrcIsBitSerial := by
  unfold Obligations.CrcIsBitSerial
  exact fun ds => crcFrom_eq_foldl 0xFFFF#16 ds

end Sys2Proof.Machine
end

section
/-! # An encoded frame comes back out of the decoder (45_frame_encoder.md R657, 46_frame_decoder.md R701 to R712)

Until its last byte a frame lies settled in the buffer: its front is no complete candidate. Each byte before the last is
therefore only appended, also one that looks like SOF, and the last one completes the frame that was sent. -/

namespace Sys2Proof.Machine

/-! ### The front of a frame -/

/-- Settled bytes are no candidate, so Evaluate leaves them alone (R703, R709). -/
theorem decodeCandidate_settled {bs : List Byte} (h : Settled bs) :
    decodeCandidate bs = .error .headerIncomplete ∨ decodeCandidate bs = .error .frameIncomplete := by
  rcases h with rfl | ⟨-, hshort | ⟨b0, ft, seq, body, rfl, hbody⟩⟩
  · exact .inl rfl
  · exact .inl (decodeCandidate_short hshort)
  · refine decodeCandidate_partial (ft := ft) (knownHeader_code ft) ?_
    simp only [List.length_cons]
    omega

theorem settled_of_prefix {bs : List Byte} {ft : FrameType} {seq : Byte} {payload : List Byte}
    (hpre : bs <+: encodedFrame ft seq payload) (hlen : bs.length < ft.len + 7) : Settled bs := by
  unfold encodedFrame frameBytes at hpre
  rcases bs with _ | ⟨b0, tail⟩
  · exact .inl rfl
  · obtain ⟨rfl, htail⟩ := List.cons_prefix_cons.mp hpre
    refine .inr ⟨rfl, ?_⟩
    rcases tail with _ | ⟨b1, _ | ⟨b2, _ | ⟨b3, body⟩⟩⟩
    · exact .inl (by simp)
    · exact .inl (by simp)
    · exact .inl (by simp)
    · simp only [List.cons_prefix_cons] at htail
      obtain ⟨rfl, rfl, rfl, -⟩ := htail
      simp only [List.length_cons] at hlen
      exact .inr ⟨_, ft, b2, body, rfl, by omega⟩

/-! ### One byte of a frame -/

/-- A decoder in SEEKING_SOF holds no bytes (R155, R702). -/
theorem seekingSof_empty {d : Decoder} (hinv : d.Inv) (hseek : d.dstate = .seekingSof) :
    d.bytes = [] ∧ d = d.withBytes [] := by
  obtain ⟨hwith, -⟩ := inv_settled d hinv
  have hblen : d.blen = 0 := hinv.1.mp hseek
  have hempty : d.bytes = [] := by rw [← List.length_eq_zero_iff, bytes_length d (by omega), hblen]
  rw [hempty] at hwith
  exact ⟨hempty, hwith⟩

/-- A byte that leaves the buffer settled is appended, and that is all (R701, R703). -/
theorem byteStep_gathers {s : State} {x : Byte} (hinv : s.dec.Inv) (h : Settled (s.dec.bytes ++ [x])) :
    byteStep x s = .next { s.noteByte with dec := s.noteByte.dec.withBytes (s.dec.bytes ++ [x]) } := by
  cases hstate : s.dec.dstate with
  | seekingSof =>
    obtain ⟨hempty, hwith⟩ := seekingSof_empty hinv hstate
    rw [hempty] at h ⊢
    rcases h with h | ⟨hhead, -⟩
    · cases h
    · obtain rfl : x = sofByte := Option.some.inj hhead
      have hbegin : s.noteByte.dec.begin sofByte = s.noteByte.dec.withBytes [sofByte] := by
        have hbuf : s.noteByte.dec.dbuf = bufOfBytes [] := congrArg Decoder.dbuf hwith
        rw [Decoder.begin, hbuf]
        rfl
      rw [List.nil_append, ← hbegin]
      exact byteStep_sof hstate
  | accumulating =>
    have hnext : s.dec.withNext x = s.noteByte.dec.withBytes (s.dec.bytes ++ [x]) :=
      withNext_eq_withBytes x hinv hstate
    rw [byteStep_accumulating x hinv hstate, ← hnext]
    refine evaluate_incomplete _ ?_
    rw [← (withNext_bytes x hinv hstate).1] at h
    exact decodeCandidate_settled h

/-- A frame with its own CRC and EOF byte passes both checks (R703). -/
theorem receiveFrame_encoded (s : State) (ft : FrameType) (seq : Byte) (payload : List Byte) :
    s.receiveFrame ft seq payload (crc16 (crcCovered ft seq payload)) eofByte
      = (s.dispatchFrame ft seq payload).clearBuffer := by
  unfold State.receiveFrame frameCrcOk
  rw [if_neg (by simp), if_neg (by simp)]

/-- The byte that completes an encoded frame delivers it and leaves an empty buffer (R703, R712). -/
theorem byteStep_delivers {s : State} {x : Byte} {ft : FrameType} {seq : Byte} {payload : List Byte}
    (hinv : s.dec.Inv) (hacc : s.dec.dstate = .accumulating) (hp : payload.length = ft.len)
    (h : s.dec.bytes ++ [x] = encodedFrame ft seq payload) :
    byteStep x s = .next { s.noteByte.dispatchFrame ft seq payload with dec := s.noteByte.dec.withBytes [] } := by
  have hdecode : decode (s.dec.bytes ++ [x])
      = .ok (mkFrame ft seq payload (crc16 (crcCovered ft seq payload)) eofByte, []) := by
    rw [h, encodedFrame]
    simpa using decode_frameBytes ft seq (crc16 (crcCovered ft seq payload)) eofByte [] hp
  rw [byteStep_runs hinv hacc hdecode, exec_mkFrame, receiveFrame_encoded, andThen_next, h]
  exact evaluate_incomplete _ (.inl rfl)

/-! ### One cycle of a frame -/

/-- A cycle whose one input is a byte on `rx`, with the port selected, is the byte step (R220, R700). -/
theorem step_of_rxCycle {s : State} {x : Byte} {script : List Cycle} (hscript : s.script = rxCycle x :: script)
    (hen : s.ctrl.rxEn = true) (hsrc : s.ctrl.rxSrc = false) : step s = byteStep x s.startCycle := by
  have hport : rxPortStep x s.startCycle = byteStep x s.startCycle := by
    rw [rxPortStep, startCycle_ctrl, hen, hsrc]
    rfl
  have hcycle : s.cycleNow = rxCycle x := by rw [State.cycleNow, hscript]
  calc step s
      = restOfCycle (rxCycle x) s.startCycle := by rw [step_of_no_reset (by rw [hcycle]; rfl), hcycle]; rfl
    _ = andThen (byteStep x s.startCycle) .next := by rw [← hport]; rfl
    _ = byteStep x s.startCycle := by cases byteStep x s.startCycle <;> rfl

/-- `t` is `s` with the given bytes in the decoder buffer and the given inputs to come, but for the model's own clock and
the notes and outputs of the cycle. -/
def Gathers (s : State) (bs : List Byte) (script : List Cycle) (t : State) : Prop :=
  ∃ clk now port, t = { s with dec := s.dec.withBytes bs, script := script, clk := clk, now := now, port := port }

section
variable {s u : State} {bs : List Byte} {x : Byte} {script : List Cycle} (hen : s.ctrl.rxEn = true)
  (hsrc : s.ctrl.rxSrc = false) (hstale : s.dec.staleCnt = 0#16) (hbs : Settled bs) (hlen : bs.length < 75)
  (hu : Gathers s bs (rxCycle x :: script) u)
include hen hsrc hstale hbs hlen hu

/-- The cycle of a byte, with what its byte step finds in the buffer. -/
theorem Gathers.rxCycle_step : step u = byteStep x u.startCycle ∧ u.startCycle.dec.Inv ∧ u.dec.bytes = bs
    ∧ u.startCycle.noteByte.dec = s.dec.withBytes bs := by
  obtain ⟨clk, now, port, rfl⟩ := hu
  refine ⟨step_of_rxCycle rfl hen hsrc, inv_withBytes _ _ hbs (by omega) (fun _ => hstale),
    withBytes_bytes _ _ (by omega), ?_⟩
  have hkeep : (s.dec.withBytes bs).staleCnt = 0#16 := by rw [withBytes_staleCnt, hstale]
  show { s.dec.withBytes bs with staleCnt := 0#16 } = s.dec.withBytes bs
  rw [← hkeep]

/-- A cycle with a byte that leaves the buffer settled. -/
theorem Gathers.step_appends (hnext : Settled (bs ++ [x])) :
    ∃ v, step u = .next v ∧ Gathers s (bs ++ [x]) script v := by
  obtain ⟨hstep, hinv, hbytes, hdec⟩ := hu.rxCycle_step hen hsrc hstale hbs hlen
  rw [← hbytes] at hnext
  rw [hstep, byteStep_gathers (s := u.startCycle) hinv hnext, hdec, startCycle_dec, hbytes, withBytes_withBytes]
  obtain ⟨clk, now, port, rfl⟩ := hu
  exact ⟨_, rfl, _, _, _, rfl⟩

/-- The cycle with the last byte of an encoded frame. -/
theorem Gathers.step_delivers {ft : FrameType} {seq : Byte} {payload : List Byte} (hp : payload.length = ft.len)
    (hframe : bs ++ [x] = encodedFrame ft seq payload) :
    ∃ v, step u = .next v ∧ Gathers (s.dispatchFrame ft seq payload) [] script v := by
  obtain ⟨hstep, hinv, hbytes, hdec⟩ := hu.rxCycle_step hen hsrc hstale hbs hlen
  have hne : bs ≠ [] := by
    rintro rfl
    have := congrArg List.length hframe
    simp at this
  have hacc : u.startCycle.dec.dstate = .accumulating := by
    obtain ⟨clk, now, port, rfl⟩ := hu
    exact (withBytes_dstate _ _).trans (if_neg hne)
  rw [← hbytes] at hframe
  rw [hstep, byteStep_delivers (s := u.startCycle) hinv hacc hp hframe, hdec, withBytes_withBytes]
  obtain ⟨clk, now, port, rfl⟩ := hu
  exact ⟨_, rfl, _, _, _, rfl⟩

end

/-! ### All bytes of a frame -/

/-- From any front of an encoded frame in the buffer, the bytes still to come make the decoder deliver the frame. -/
theorem Gathers.reaches_delivery {s : State} {ft : FrameType} {seq : Byte} {payload : List Byte} {rest : List Cycle}
    (hen : s.ctrl.rxEn = true) (hsrc : s.ctrl.rxSrc = false) (hstale : s.dec.staleCnt = 0#16)
    (hp : payload.length = ft.len) {x : Byte} {more bs : List Byte} {u : State}
    (hframe : bs ++ x :: more = encodedFrame ft seq payload) (hu : Gathers s bs ((x :: more).map rxCycle ++ rest) u) :
    ∃ t, Reaches (x :: more).length u t ∧ Gathers (s.dispatchFrame ft seq payload) [] rest t := by
  have hlen : bs.length + (more.length + 1) = ft.len + 7 := by
    have := congrArg List.length hframe
    simpa [hp] using this
  have hle : ft.len ≤ 68 := by cases ft <;> decide
  have hbs : Settled bs := settled_of_prefix ⟨x :: more, hframe⟩ (by omega)
  induction more generalizing x bs u with
  | nil =>
    obtain ⟨t, hstep, ht⟩ := hu.step_delivers hen hsrc hstale hbs (by omega) hp hframe
    exact ⟨t, ⟨t, hstep, rfl⟩, ht⟩
  | cons y more ih =>
    have hframe' : (bs ++ [x]) ++ y :: more = encodedFrame ft seq payload := by simpa using hframe
    have hlen' : (bs ++ [x]).length + (more.length + 1) = ft.len + 7 := by
      simp only [List.length_append, List.length_cons, List.length_nil] at hlen ⊢
      omega
    have hnext : Settled (bs ++ [x]) := settled_of_prefix ⟨y :: more, hframe'⟩ (by omega)
    obtain ⟨v, hstep, hv⟩ := hu.step_appends hen hsrc hstale hbs (by omega) hnext
    obtain ⟨t, hreach, ht⟩ := ih hframe' hv hlen' hnext
    exact ⟨t, ⟨v, hstep, hreach⟩, ht⟩

/-- A decoder in SEEKING_SOF has gathered nothing yet (R702). -/
theorem gathers_nil {s : State} (hinv : s.dec.Inv) (hseek : s.dec.dstate = .seekingSof) :
    Gathers s [] s.script s := by
  obtain ⟨-, hwith⟩ := seekingSof_empty hinv hseek
  exact ⟨s.clk, s.now, s.port, by rw [← hwith]⟩

/-- Settles O38, by induction on the bytes still to come: all but the last are gathered, the last one delivers. -/
theorem encodedFrameIsDecoded : Obligations.EncodedFrameIsDecoded := by
  unfold Obligations.EncodedFrameIsDecoded
  intro s ft seq payload rest ⟨hinv, _⟩ hseek hen hsrc hp hscript
  have hstart := gathers_nil hinv hseek
  rw [hscript] at hstart
  obtain ⟨-, -, -, -, hstale⟩ := hinv
  obtain ⟨t, hreach, clk, now, port, rfl⟩ :=
    Gathers.reaches_delivery hen hsrc (hstale hseek) hp (bs := []) (seq := seq) (payload := payload) rfl hstart
  have hcount : ft.len + 7 = (encodedFrame ft seq payload).length := by rw [encodedFrame_length, hp]
  rw [hcount]
  refine ⟨_, hreach, rfl, ?_, rfl, rfl, rfl, rfl, rfl⟩
  rw [bytesAt_eq, ← hp]
  exact memReadBytes_writeBytes payload s.mem (rxBase ft)

end Sys2Proof.Machine
end

section
/-! # The decoder's frames, Resync and the stale timeout (46_frame_decoder.md R703 to R721) -/

namespace Sys2Proof.Machine

/-! ### The decoder invariants -/

/-- Settles O40: every step of the cycle keeps the invariants, so the cycle does. -/
theorem decoderInvariantKept : Obligations.DecoderInvariantKept := by
  unfold Obligations.DecoderInvariantKept
  intro s t h ht
  obtain ⟨u, hu, -, hinv⟩ := step_goesOn h
  obtain rfl : u = t := Host.Outcome.next.inj (hu.symm.trans ht)
  exact hinv

/-- Settles O41: with the invariants the buffer has room for a byte, and no other step can stop. -/
theorem stepNeverStops : Obligations.StepNeverStops := by
  unfold Obligations.StepNeverStops
  intro s h
  obtain ⟨t, ht, -, -⟩ := step_goesOn h
  exact ⟨t, ht⟩

/-! ### The buffer with given bytes, field by field -/

/-- An empty buffer is the decoder's initial state but for the stale count (R702). -/
theorem withBytes_nil (d : Decoder) : d.withBytes [] = emptyDecoder d.staleCnt := by
  have hbuf : bufOfBytes [] = Vector.replicate 75 0x00#8 := rfl
  unfold emptyDecoder
  rw [← hbuf]
  rfl

theorem withBytes_of_ne_nil (d : Decoder) {bs : List Byte} (h : bs ≠ []) :
    d.withBytes bs
      = { dstate := .accumulating, dbuf := bufOfBytes bs, blen := bs.length, staleCnt := d.staleCnt } := by
  cases bs with
  | nil => exact absurd rfl h
  | cons b rest => rfl

/-- The valid bytes of the buffer, by index (R151). -/
theorem bytes_getD_eq (d : Decoder) (k : Nat) :
    d.bytes.getD k 0#8 = if k < d.blen then d.dbuf.toList.getD k 0#8 else 0#8 := by
  unfold Decoder.bytes
  rw [List.getD_eq_getElem?_getD, List.getD_eq_getElem?_getD, List.getElem?_take]
  split <;> rfl

/-! ### Resync (R708) -/

/-- `dropWhile` drops up to the first index that fails its test. -/
theorem dropWhile_eq_drop_first {p : Byte → Bool} {bs : List Byte} {j : Nat}
    (hat : bs.length ≤ j ∨ p (bs.getD j 0#8) = false)
    (hbefore : ∀ k < j, k < bs.length → p (bs.getD k 0#8) = true) :
    bs.dropWhile p = bs.drop j := by
  induction bs generalizing j with
  | nil => simp
  | cons b bs ih =>
    cases j with
    | zero =>
      have hb : ¬ p b = true := by simpa using hat
      rw [List.dropWhile_cons_of_neg hb, List.drop_zero]
    | succ j =>
      have hb : p b = true := by simpa using hbefore 0
      rw [List.dropWhile_cons_of_pos hb, List.drop_succ_cons]
      exact ih (by simpa using hat) fun k hk hlen => by simpa [hlen] using hbefore (k + 1) (by omega)

/-- Resync keeps the buffer from the first index after 0 that holds SOF; with no such index, `j` is past the end. -/
theorem resyncKeep_eq_drop {bs : List Byte} {j : Nat} (hat : bs.length ≤ j + 1 ∨ bs.getD (j + 1) 0#8 = sofByte)
    (hbefore : ∀ k, 1 ≤ k → k < j + 1 → k < bs.length → bs.getD k 0#8 ≠ sofByte) :
    resyncKeep bs = bs.drop (j + 1) := by
  unfold resyncKeep
  cases bs with
  | nil => rfl
  | cons b bs =>
    refine dropWhile_eq_drop_first (bs := bs) ?_ fun k hk hlen => ?_
    · simpa using hat
    · simpa [hk, hlen] using hbefore (k + 1)

/-- The buffer from index `j` on, shifted to the front, with zeros behind it. -/
theorem bufOfBytes_drop (d : Decoder) (j : Nat) :
    bufOfBytes (d.bytes.drop j) = Vector.ofFn (fun k : Fin 75 =>
      if k.val < d.blen - j then d.dbuf.toList.getD (j + k.val) 0x00#8 else 0x00#8) := by
  apply Vector.ext
  intro k hk
  have hshift : k < d.blen - j ↔ j + k < d.blen := by omega
  rw [bufOfBytes_getElem _ _ hk, List.getD_eq_getElem?_getD, List.getElem?_drop, ← List.getD_eq_getElem?_getD,
    bytes_getD_eq, Vector.getElem_ofFn]
  exact if_congr hshift.symm rfl rfl

theorem withBytes_drop (d : Decoder) {j : Nat} (hl : d.blen ≤ 75) (hj : j < d.blen) :
    d.withBytes (d.bytes.drop j)
      = { dstate := .accumulating, dbuf := bufOfBytes (d.bytes.drop j)
          blen := d.blen - j, staleCnt := d.staleCnt } := by
  have hlen : (d.bytes.drop j).length = d.blen - j := by rw [List.length_drop, bytes_length d hl]
  have hne : d.bytes.drop j ≠ [] := by
    rw [← List.length_pos_iff, hlen]
    omega
  rw [withBytes_of_ne_nil d hne, hlen]

/-- Settles O36: the first SOF behind index 0, or the end of the buffer, is where Resync cuts. -/
theorem resyncKeepsFromFirstSof : Obligations.ResyncKeepsFromFirstSof := by
  unfold Obligations.ResyncKeepsFromFirstSof
  intro s hl
  have hvalid : ∀ k, k < s.dec.blen → s.dec.bytes.getD k 0#8 = s.dec.dbuf.toList.getD k 0#8 :=
    fun k hk => (bytes_getD_eq s.dec k).trans (if_pos hk)
  have hresync : s.resync = { s with dec := s.dec.withBytes (resyncKeep s.dec.bytes) } := rfl
  refine ⟨fun j hj hlt hsof hbefore => ?_, fun hnone => ?_⟩
  · obtain ⟨i, rfl⟩ : ∃ i, j = i + 1 := ⟨j - 1, by omega⟩
    have hkeep : resyncKeep s.dec.bytes = s.dec.bytes.drop (i + 1) :=
      resyncKeep_eq_drop (.inr ((hvalid _ hlt).trans hsof)) fun k hk hki _ => by
        rw [hvalid k (by omega)]
        exact hbefore k hk hki
    rw [hresync, hkeep, withBytes_drop s.dec hl hlt, bufOfBytes_drop]
  · have hkeep : resyncKeep s.dec.bytes = s.dec.bytes.drop (s.dec.blen + 1) := by
      refine resyncKeep_eq_drop (.inl ?_) fun k hk _ hlen => ?_
      · rw [bytes_length s.dec hl]
        omega
      · rw [bytes_length s.dec hl] at hlen
        rw [hvalid k hlen]
        exact hnone k hk hlen
    have hend : s.dec.bytes.drop (s.dec.blen + 1) = [] :=
      List.drop_eq_nil_of_le (by rw [bytes_length s.dec hl]; omega)
    rw [hresync, hkeep, hend, withBytes_nil]

/-! ### A candidate frame: delivered, or rejected (R703, R705, R706, R712) -/

/-- A frame with its own CRC and EOF byte is delivered. -/
theorem receiveFrame_delivered (s : State) (ft : FrameType) (seq : Byte) (payload : List Byte) :
    Delivered s (s.receiveFrame ft seq payload (crc16 (crcCovered ft seq payload)) eofByte) ft (irqRx ft) (rxBase ft)
      seq payload := by
  rw [receiveFrame_encoded]
  refine ⟨?_, memRead_writeBytes payload s.mem (rxBase ft)⟩
  rw [← withBytes_nil]
  rfl

/-- Settles O34: the three types are one case, as a delivery is said once for every type. -/
theorem framesAreDelivered : Obligations.FramesAreDelivered := by
  unfold Obligations.FramesAreDelivered
  intro s seq payload
  exact ⟨fun _ => ⟨_, exec_mkFrame .feature seq payload _ _ s, receiveFrame_delivered s .feature seq payload⟩,
    fun _ => ⟨_, exec_mkFrame .command seq payload _ _ s, receiveFrame_delivered s .command seq payload⟩,
    fun _ => ⟨_, exec_mkFrame .aux seq payload _ _ s, receiveFrame_delivered s .aux seq payload⟩⟩

/-- A decoder error followed by Resync: the record, the counter, the event bit and the buffer (R806). -/
theorem raiseDecError_resync (s : State) (code : DecErrCode) :
    (s.raiseDecError code).resync
      = { s with
            dec := s.resync.dec, decErr := recordOf s.dec (decErrNumber code), irqStatus := s.irqStatus ||| irqRxErr
            now := (s.raiseDecError code).resync.now, cnt := s.cnt.bumpDec code } := rfl

/-- The EOF byte is checked before the CRC (R703, R705). -/
theorem receiveFrame_wrongEof (s : State) (ft : FrameType) (seq : Byte) (payload : List Byte) (crc : BitVec 16)
    {eof : Byte} (h : eof ≠ eofByte) :
    s.receiveFrame ft seq payload crc eof = (s.raiseDecError .framingError).resync := if_pos h

theorem receiveFrame_wrongCrc (s : State) {ft : FrameType} {seq : Byte} {payload : List Byte} {crc : BitVec 16}
    (h : crc ≠ crc16 (crcCovered ft seq payload)) :
    s.receiveFrame ft seq payload crc eofByte = (s.raiseDecError .checksumError).resync := by
  have hwrong : frameCrcOk ft seq payload crc = false := beq_false_of_ne h.symm
  unfold State.receiveFrame
  rw [if_neg (not_not_intro rfl), if_pos hwrong]

/-- What is said of each of three listed items is said of the item of each frame type. -/
theorem forall_mem_frameTypes {α : Type} (f : FrameType → α) {P : α → Prop} (h : ∀ ft, P (f ft)) :
    ∀ x ∈ [f .feature, f .command, f .aux], P x := by
  simp only [List.forall_mem_cons]
  exact ⟨h .feature, h .command, h .aux, by simp⟩

/-- Settles O35: one lemma for each check that fails, for every type. -/
theorem badFramesAreRejected : Obligations.BadFramesAreRejected := by
  unfold Obligations.BadFramesAreRejected
  intro s seq payload crc eof
  refine ⟨fun heof => forall_mem_frameTypes (fun ft => mkFrame ft seq payload crc eof) fun ft => ?_,
    forall_mem_frameTypes (fun ft => (mkFrame ft seq payload crc eofByte, frameCode ft, frameLenByte ft))
      fun ft hcrc => ?_⟩
  · refine ⟨_, exec_mkFrame ft seq payload crc eof s, ?_⟩
    rw [receiveFrame_wrongEof s ft seq payload crc heof]
    exact raiseDecError_resync s .framingError
  · refine ⟨_, exec_mkFrame ft seq payload crc eofByte s, ?_⟩
    rw [receiveFrame_wrongCrc s hcrc]
    exact raiseDecError_resync s .checksumError

/-! ### The timebase step (R720) -/

theorem timebaseStep_of_byteTaken {s : State} (h : s.now.byteTaken = true) : timebaseStep s = s := if_pos h

/-- Without a frame being gathered, or with the timeout off, a strobe does nothing. -/
theorem timebaseStep_ignored {s : State} (h : s.dec.dstate = .seekingSof ∨ s.staleTimeout = 0#16) :
    timebaseStep s = s := by
  have hoff : ¬ (s.dec.dstate = .accumulating ∧ s.staleTimeout ≠ 0#16) := by
    rintro ⟨hacc, hon⟩
    rcases h with hseek | hzero
    · rw [hseek] at hacc
      cases hacc
    · exact hon hzero
  unfold timebaseStep
  rw [if_neg hoff, ite_self]

/-- A strobe that counts: the count goes up, and the timeout is reached or not. -/
theorem timebaseStep_counts {s : State} (hbyte : s.now.byteTaken = false) (hacc : s.dec.dstate = .accumulating)
    (hon : s.staleTimeout ≠ 0#16) :
    timebaseStep s = if s.staleTimeout.toNat ≤ min (s.dec.staleCnt.toNat + 1) 65535 then s.countStale.staleClear
      else s.countStale := by
  have hreached : s.staleTimeout ≤ s.countStale.dec.staleCnt
      ↔ s.staleTimeout.toNat ≤ min (s.dec.staleCnt.toNat + 1) 65535 := by
    rw [← toNat_nextStale]
    rfl
  unfold timebaseStep
  rw [hbyte, if_neg Bool.false_ne_true, if_pos ⟨hacc, hon⟩]
  exact if_congr hreached rfl rfl

/-- Below its largest value the stale count goes up by one. -/
theorem nextStale_of_lt {c : BitVec 16} (h : c.toNat < 65535) : nextStale c = c + 1#16 := by
  refine if_neg fun hmax => ?_
  rw [hmax] at h
  exact absurd h (by decide)

/-- The timeout on top of a count: StaleFrame with the record of the buffer as it was, and a hard clear. -/
theorem countStale_staleClear (s : State) :
    s.countStale.staleClear
      = { s with
            dec := emptyDecoder 0#16, decErr := recordOf s.dec 4#4, irqStatus := s.irqStatus ||| irqRxErr
            cnt := { s.cnt with stale := s.cnt.stale + 1#32 }, now := s.countStale.staleClear.now } := by
  rw [← (staleClear_eq s.countStale).1]
  rfl

/-! ### A byte and a strobe in one cycle (R720) -/

theorem receiveFrame_byteTaken (s : State) (ft : FrameType) (seq : Byte) (payload : List Byte) (crc : BitVec 16)
    (eof : Byte) : (s.receiveFrame ft seq payload crc eof).now.byteTaken = s.now.byteTaken := by
  unfold State.receiveFrame
  split
  · rfl
  · split <;> rfl

/-- Evaluate keeps the note that a byte was taken. -/
theorem evaluate_byteTaken (n : Nat) {s t : State} (h : evaluate n s = .next t) :
    t.now.byteTaken = s.now.byteTaken := by
  induction n generalizing s with
  | zero => cases h; rfl
  | succ n ih =>
    rcases decodeCandidate_cases s.dec.bytes with ⟨_, ft, seq, p, lo, hi, e, rest, -, -, hd⟩
        | ⟨_, _, _, _, -, -, hd⟩ | ⟨_, _, _, _, _, -, -, hd⟩ | ⟨-, hd⟩
    · simp only [evaluate, hd, exec_mkFrame, andThen_next] at h
      exact (ih h).trans (receiveFrame_byteTaken s ft seq p _ e)
    · simp only [evaluate, hd] at h; cases h; rfl
    · simp only [evaluate, hd] at h
      exact (ih h).trans rfl
    · simp only [evaluate, hd] at h; cases h; rfl

/-- A byte step notes its byte, also when SEEKING_SOF drops the byte. -/
theorem byteStep_byteTaken {x : Byte} {s t : State} (h : byteStep x s = .next t) : t.now.byteTaken = true := by
  unfold byteStep at h
  split at h
  · split at h <;> (cases h; rfl)
  · split at h
    · exact evaluate_byteTaken _ h
    · cases h

/-- A byte taken on `rx` holds off the strobe of its cycle. -/
theorem step_of_byte_and_tick {s : State} {x : Byte} (hinv : s.DecoderInv) (hen : s.ctrl.rxEn = true)
    (hsrc : s.ctrl.rxSrc = false) (hcycle : s.cycleNow = { Cycle.quiet with rx := some x, tbTick := true }) :
    ∃ t, step s = .next t ∧ byteStep x s.startCycle = .next t := by
  obtain ⟨t, ht, -, -⟩ := byteStep_goesOn x (s := s.startCycle) hinv hen
  have hport : rxPortStep x s.startCycle = .next t := by
    rw [rxPortStep_ctrl, if_pos ⟨hen, hsrc⟩, ht]
  refine ⟨t, ?_, ht⟩
  calc step s
      = andThen (rxPortStep x s.startCycle) (fun u => .next (timebaseStep u)) := by
        rw [step_of_no_reset (by rw [hcycle]; rfl), hcycle]
        rfl
    _ = .next t := by rw [hport, andThen_next, timebaseStep_of_byteTaken (byteStep_byteTaken ht)]

/-- Settles O39: a clause for each way a strobe can go, and the byte of the same cycle. -/
theorem staleTimeout : Obligations.StaleTimeout := by
  unfold Obligations.StaleTimeout
  intro s
  refine ⟨timebaseStep_of_byteTaken, timebaseStep_ignored, fun hbyte hacc hon hbelow => ?_,
    fun hbyte hacc hon hreached => ?_, fun x hinv hen hsrc hcycle => step_of_byte_and_tick hinv hen hsrc hcycle⟩
  · have hlt : s.dec.staleCnt.toNat < 65535 := by
      have := s.staleTimeout.isLt
      omega
    rw [timebaseStep_counts hbyte hacc hon, if_neg (by omega), State.countStale, nextStale_of_lt hlt]
  · have hfires : timebaseStep s = s.countStale.staleClear := by
      rw [timebaseStep_counts hbyte hacc hon, if_pos hreached]
    rw [hfires]
    exact countStale_staleClear s

end Sys2Proof.Machine
end

section
/-! # A cycle in reset (70_reset_and_hazards.md R900) -/

namespace Sys2Proof.Machine

/-- In reset no agent of the cycle takes its step: the next state is the reset cycle's, whatever is pending. -/
theorem step_of_reset {s : State} (h : s.cycleNow.rst = true) :
    step s = .next (s.startCycle.resetCycle s.cycleNow) := by
  rw [step_eq, runCycle, if_pos h]

/-! ### The outputs after reset -/

/-- Without a pending interrupt bit `irq` is low, whatever is enabled (R810). -/
theorem irqOut_of_irqStatus_zero {s : State} (h : s.irqStatus = 0#7) : s.irqOut = false := by
  rw [State.irqOut, h, BitVec.zero_and]
  rfl

/-- The empty FIFO of reset offers no byte on `tx`. -/
theorem resetCycle_txValid (s : State) (c : Cycle) : (s.resetCycle c).txValid = false :=
  txValid_eq_false (.inr rfl)

theorem resetCycle_irqOut (s : State) (c : Cycle) : (s.resetCycle c).irqOut = false :=
  irqOut_of_irqStatus_zero rfl

theorem resetCycle_port (s : State) (c : Cycle) :
    (s.resetCycle c).port = { PortOut.none with bus := resetResponse c.host } := rfl

/-! ### The bus response in reset -/

theorem resetResponse_none : resetResponse none = none := rfl

/-- A write is answered as a read is: data 0 and no error (notes/assumptions/12.md). -/
theorem resetResponse_some (a : HostAccess) : resetResponse (some a) = some { data := 0#32, err := false } := rfl

/-- Settles O10: the step in reset is `resetCycle`, whose outputs and bus response are read off one by one. -/
theorem resetCycle : Obligations.ResetCycle := by
  unfold Obligations.ResetCycle
  intro s hrst
  refine ⟨_, step_of_reset hrst, rfl, ?_, resetCycle_txValid _ _, resetCycle_irqOut _ _, fun hhost => ?_,
    fun a hhost => ?_⟩
  · rw [resetCycle_port, PortOut.none]
  · rw [resetCycle_port, hhost, resetResponse_none]
  · rw [resetCycle_port, hhost, resetResponse_some]

end Sys2Proof.Machine
end
